-- ==== Sys2Proof/Word.lean ====
section
/-! DEFINITION. The word types of the block (00_scope.md section 5.1): bytes, 16-bit register words, and the
binary64 patterns of the Codec's ports. Everything computed from them lives under Machine/. -/

namespace Sys2Proof

/-- A byte: 8 bits, unsigned (00_scope.md section 5.1). -/
abbrev Byte := BitVec 8

/-- A word: one 16-bit holding register, or any other 16-bit field (00_scope.md section 5.1, R12). -/
abbrev Word := BitVec 16

/-- An IEEE-754 binary64 value, held as its 64-bit pattern (R135, R146). -/
abbrev F64 := BitVec 64

end Sys2Proof
end

