-- ==== Sys2Proof/Config.lean ====
section
/-! DEFINITION. What an instance is configured with: the static inputs of R17, sampled at reset and constant afterwards.
They are held in State (`State.cfg`), so that a statement about every state is a statement about every configuration. -/

namespace Sys2Proof

/-- Which engine the instance is, fixed at reset (R10, R17, R230). -/
inductive Role where
  | responder
  | requester
deriving DecidableEq, Repr

/-- "dense-vs-sparse store selection" (R17, R21). -/
inductive Layout where
  | dense
  | sparse
deriving DecidableEq, Repr

/-- The configuration straps of R17, one field a row of its table. SPARSE_MAP, a set of addresses, is the list of the
addresses whose bit is set (DESIGN CHOICE, log 18): only membership is ever asked of it (`mapped`). -/
structure Config where
  role            : Role
  unit            : Byte
  layout          : Layout
  denseBase       : Word
  denseCount      : BitVec 17
  sparseMap       : List Word
  acceptNonfinite : Bool
deriving DecidableEq, Repr

namespace Config

/-- The legal column of R17's table (also R6, R18): UNIT in 1..247, and a dense range that is not empty and does not
pass 65535. The fields of the other role, or of the other layout, are not constrained. -/
def legal (c : Config) : Bool :=
  match c.role with
  | .requester => true
  | .responder =>
    decide (1 ≤ c.unit.toNat ∧ c.unit.toNat ≤ 247) &&
    match c.layout with
    | .dense  => decide (1 ≤ c.denseCount.toNat ∧ c.denseBase.toNat + c.denseCount.toNat - 1 ≤ 65535)
    | .sparse => true

/-- The straps of `State.reset`: a Responder at unit 1 with the dense registers 0..255 (DESIGN CHOICE, log 3: the spec
gives no value to any of them). ACCEPT_NONFINITE is 0, the default R148 gives. -/
def atReset : Config :=
  { role := .responder, unit := 1, layout := .dense, denseBase := 0, denseCount := 256,
    sparseMap := [], acceptNonfinite := false }

end Config

end Sys2Proof
end

