-- ==== Sys2Proof/Syntax.lean ====
section
/-! DEFINITION. The syntax of everything the block executes: the seven wire frames and the sixteen host commands of
30_encoding.md (R70, R80), one constructor per row of spec/opcode_table.json, and the two shapes in which they arrive. -/

namespace Sys2Proof

/-- byteOrder and wordOrder: "encoded 0 = BigEndian, 1 = LittleEndian" (R80, R143). -/
inductive Order where
  | big
  | little
deriving DecidableEq, Repr

/-- addressSpan: one register (a scaled integer) or two (a binary32 float) (R151). -/
inductive Span where
  | one
  | two
deriving DecidableEq, Repr

/-- The encoding descriptor of a MeasurementValue (R151, R80). -/
structure Descriptor where
  span      : Span
  scale     : Word
  signed    : Bool
  byteOrder : Order
  wordOrder : Order
deriving DecidableEq, Repr

/-- The instructions: one constructor per row of spec/opcode_table.json. A wire frame's constructor holds the operands
its format gives it (R63 to R67); its byte counts are computed from the list of words. -/
inductive Instr where
  /-- `RHR unit, start, count`: read holding registers, request (R63, R166). -/
  | rhr (unit : Byte) (start count : Word)
  /-- `RHR.R unit, [w0, …]`: the words read, response (R64, R190). -/
  | rhrR (unit : Byte) (words : List Word)
  /-- `WSR unit, addr, value`: write single register, request (R63, R167). -/
  | wsr (unit : Byte) (addr value : Word)
  /-- `WSR.R unit, addr, value`: the echo of WSR, response (R66, R167). -/
  | wsrR (unit : Byte) (addr value : Word)
  /-- `WMR unit, start, [w0, …]`: write multiple registers, request (R65, R168). -/
  | wmr (unit : Byte) (start : Word) (values : List Word)
  /-- `WMR.R unit, start, count`: start and count written, response (R66, R168). -/
  | wmrR (unit : Byte) (start count : Word)
  /-- `EXC unit, fn, code`: exception response. `fn` is the request's function code, the seven low bits of the frame's
  function-code byte, whose bit 7 is set (R67, R170, R191). -/
  | exc (unit : Byte) (fn : BitVec 7) (code : Byte)
  /-- `CRC.INIT` (R94). -/
  | crcInit
  /-- `CRC.UPD b` (R95). -/
  | crcUpd (b : Byte)
  /-- `CRC.READ` (R96). -/
  | crcRead
  /-- `FRM.ENC` (R100). -/
  | frmEnc (unit fn : Byte) (payload : List Byte)
  /-- `FRM.DEC` (R103). -/
  | frmDec (raw : List Byte)
  /-- `RS.READ` (R123). -/
  | rsRead (start count : Word)
  /-- `RS.WRITE` (R124). -/
  | rsWrite (start : Word) (values : List Word)
  /-- `ENC.MEAS` (R152). -/
  | encMeas (value : F64) (d : Descriptor)
  /-- `DEC.MEAS` (R153). -/
  | decMeas (words : List Word) (d : Descriptor)
  /-- `ENC.SCALED` (R136). -/
  | encScaled (value : F64) (scale : Word) (signed : Bool)
  /-- `DEC.SCALED` (R140). -/
  | decScaled (word scale : Word) (signed : Bool)
  /-- `ENC.F32` (R144). -/
  | encF32 (value : F64) (byteOrder wordOrder : Order)
  /-- `DEC.F32` (R147). -/
  | decF32 (reg0 reg1 : Word) (byteOrder wordOrder : Order)
  /-- `RQ.SENDREAD` (R187). -/
  | rqSendRead (unit : Byte) (start count : Word) (timeout : BitVec 32)
  /-- `RQ.CANCEL` (R194). -/
  | rqCancel
  /-- `RQ.READMEAS` (R195). -/
  | rqReadMeas (unit : Byte) (addr : Word) (d : Descriptor) (timeout : BitVec 32)
deriving DecidableEq, Repr

/-- The host port: OPSEL and one operand line for each operand name of R80's table, of the width the table gives
(DESIGN CHOICE, log 8: the spec gives the operands' widths and no layout). A command reads only its own lines. -/
structure HostPort where
  opsel     : BitVec 5
  b         : Byte := 0
  unit      : Byte := 0
  fn        : Byte := 0
  payload   : List Byte := []
  raw       : List Byte := []
  start     : Word := 0
  count     : Word := 0
  addr      : Word := 0
  values    : List Word := []
  words     : List Word := []
  value     : F64 := 0
  word      : Word := 0
  reg0      : Word := 0
  reg1      : Word := 0
  span      : BitVec 1 := 0
  scale     : Word := 0
  signed    : BitVec 1 := 0
  byteOrder : BitVec 1 := 0
  wordOrder : BitVec 1 := 0
  timeout   : BitVec 32 := 0
deriving DecidableEq, Repr

/-- An instruction as it arrives: the bytes of a whole wire frame (R60), or a command on the host port (R80). -/
inductive Encoded where
  | frame (bytes : List Byte)
  | command (p : HostPort)
deriving DecidableEq, Repr

end Sys2Proof
end

