-- ==== Sys2Proof/Machine/Bytes.lean ====
section
/-! DEFINITION. Byte order: how 16-bit words travel as bytes (00_scope.md section 5.1; R40, R68). -/

namespace Sys2Proof.Machine

/-- `hi8(w) = w[15:8]`. -/
def hi8 (w : Word) : Byte := w.extractLsb' 8 8

/-- `lo8(w) = w[7:0]`. -/
def lo8 (w : Word) : Byte := w.extractLsb' 0 8

/-- `mk16(h, l) = (h << 8) | l`. -/
def mk16 (h l : Byte) : Word := (h.setWidth 16 <<< 8) ||| l.setWidth 16

/-- `bswap16(w) = mk16(lo8(w), hi8(w))`. -/
def bswap16 (w : Word) : Word := mk16 (lo8 w) (hi8 w)

/-- A word travels as `[hi8(w), lo8(w)]`, most significant byte first (R40). -/
def wordBytes : List Word → List Byte
  | [] => []
  | w :: ws => hi8 w :: lo8 w :: wordBytes ws

/-- Two consecutive payload bytes `[h, l]` give the word `mk16(h, l)` (R40, R68); a single byte left over is dropped
(every caller has checked the length). -/
def bytesWords : List Byte → List Word
  | h :: l :: rest => mk16 h l :: bytesWords rest
  | [_] => []
  | [] => []

end Sys2Proof.Machine
end

