-- ==== Sys2Proof/Machine/Crc.lean ====
section
/-! DEFINITION. The CRC-16/MODBUS generator (40_crc.md). -/

namespace Sys2Proof.Machine

/-- The initial value (R90). -/
def crcInitial : Word := 0xFFFF

/-- The reflected polynomial constant (R90). -/
def crcPoly : Word := 0xA001

/-- One of the eight shifts of R91: right by one, and the polynomial exclusive-ored in when the bit shifted out is 1. -/
def crcShift (a : Word) : Word :=
  if a.getLsbD 0 then (a >>> 1) ^^^ crcPoly else a >>> 1

/-- `crc_step(acc, b)` (R91): the byte enters the low 8 bits, then eight shifts. -/
def crcStep (acc : Word) (b : Byte) : Word :=
  Nat.repeat crcShift 8 (acc ^^^ b.setWidth 16)

/-- The accumulator after the bytes of `s`, first byte first, from `acc`. -/
def crcFrom (acc : Word) (s : List Byte) : Word :=
  s.foldl crcStep acc

/-- `crc16(s)` (R93). -/
def crc16 (s : List Byte) : Word :=
  crcFrom crcInitial s

end Sys2Proof.Machine
end

