-- ==== Sys2Proof/Machine/Errors.lean ====
section
/-! DEFINITION. The typed errors of the block (60_exceptions.md R210). An error is a value an operation returns, never a
trap or a stopped machine (R216, R217). -/

namespace Sys2Proof.Machine

/-- The taxonomy of R210, and the answer `Refused` that 93_implementation_defined.md U4 gives a total model. -/
inductive CoreError where
  | crcMismatch
  | frameTimeout
  | frameTooShort
  | frameTooLong
  | payloadTooLarge
  | illegalDataAddress
  | illegalDataValue
  | illegalFunction
  | slaveDeviceFailure
  | unknownException (code : Byte)
  | valueOutOfRange
  | malformedFloat
  | responseTimeout
  | busy
  | cancelled
  /-- A reserved OPSEL, a command of the other role, or an illegal operand value (U4, U5, U7; R81): no state changes. -/
  | refused
deriving DecidableEq, Repr

/-- The exception codes of R211 on the wire, `exception(f, code)` of R170. -/
def codeIllegalFunction : Byte := 0x01

/-- R211: IllegalDataAddress = 0x02. -/
def codeIllegalDataAddress : Byte := 0x02

/-- R211: IllegalDataValue = 0x03. -/
def codeIllegalDataValue : Byte := 0x03

/-- `excname(code)`: the error a requester maps a received exception code to (R191, R211). -/
def excName (code : Byte) : CoreError :=
  if code = 0x01 then .illegalFunction
  else if code = 0x02 then .illegalDataAddress
  else if code = 0x03 then .illegalDataValue
  else if code = 0x04 then .slaveDeviceFailure
  else .unknownException code

end Sys2Proof.Machine
end

