-- ==== Sys2Proof/Machine/Framer.lean ====
section
/-! DEFINITION. The framer's two pure functions, encode and decode (41_framer.md R100 to R105). -/

namespace Sys2Proof.Machine

/-- A Frame (00_scope.md section 6; R103): `crc` is the CRC the bytes carried. -/
structure Frame where
  unit    : Byte
  fn      : Byte
  payload : List Byte
  crc     : Word
deriving DecidableEq, Repr

/-- The longest payload (R60, R100). -/
def maxPayload : Nat := 252

/-- FRAME_MAX: the longest candidate frame (R6, R103, R107). -/
def frameMax : Nat := 256

/-- A body with its CRC appended, low byte first (R41, R60). -/
def withCrc (body : List Byte) : List Byte :=
  body ++ [lo8 (crc16 body), hi8 (crc16 body)]

/-- The layout of R60: `[unit][fn][payload][crcLo][crcHi]`. -/
def serialize (unit fn : Byte) (payload : List Byte) : List Byte :=
  withCrc (unit :: fn :: payload)

/-- `encode(unit, fn, payload)` (R100): it checks nothing but the payload length (R101). -/
def frameEncode (unit fn : Byte) (payload : List Byte) : Except CoreError (List Byte) :=
  if maxPayload < payload.length then .error .payloadTooLarge
  else .ok (serialize unit fn payload)

/-- `decode(raw)` (R103), its three errors in R103's order. -/
def frameDecode (raw : List Byte) : Except CoreError Frame :=
  let n := raw.length
  if n < 4 then .error .frameTooShort
  else if frameMax < n then .error .frameTooLong
  else
    let c := crc16 (raw.take (n - 2))
    if raw.getD (n - 2) 0 ≠ lo8 c ∨ raw.getD (n - 1) 0 ≠ hi8 c then .error .crcMismatch
    else .ok { unit := raw.getD 0 0, fn := raw.getD 1 0, payload := (raw.drop 2).take (n - 4), crc := c }

end Sys2Proof.Machine
end

