-- ==== Sys2Proof/WellFormed.lean ====
section
/-! DEFINITION. Which terms of Instr are instructions of the block: those whose list operands fit their encoding. An
operand VALUE a command refuses (scale 0, a unit outside 1..247, the wrong number of words) is not ill-formed: it is
encodable, and the command answers it with a typed error (Machine/Operands.lean). -/

namespace Sys2Proof

/-- The most words a read response carries: a payload of `1 + 2n` bytes is at most 252 (R60, R64). -/
def maxResponseWords : Nat := 125

/-- The most words a write-multiple request carries: a payload of `5 + 2n` bytes is at most 252 (R60, R65). -/
def maxRequestWords : Nat := 123

/-- A well-formed instruction fits its encoding: a wire frame has at most 252 payload bytes (R60). The other operands
are bounded by their types, and a host command's sequences have any length (R80, R100, R103, R124). -/
def WellFormed : Instr → Bool
  | .rhr _ _ _ => true
  | .rhrR _ words => decide (words.length ≤ maxResponseWords)
  | .wsr _ _ _ => true
  | .wsrR _ _ _ => true
  | .wmr _ _ values => decide (values.length ≤ maxRequestWords)
  | .wmrR _ _ _ => true
  | .exc _ _ _ => true
  | .crcInit => true
  | .crcUpd _ => true
  | .crcRead => true
  | .frmEnc _ _ _ => true
  | .frmDec _ => true
  | .rsRead _ _ => true
  | .rsWrite _ _ => true
  | .encMeas _ _ => true
  | .decMeas _ _ => true
  | .encScaled _ _ _ => true
  | .decScaled _ _ _ => true
  | .encF32 _ _ _ => true
  | .decF32 _ _ _ _ => true
  | .rqSendRead _ _ _ _ => true
  | .rqCancel => true
  | .rqReadMeas _ _ _ _ => true

end Sys2Proof
end

