-- ==== Sys2Proof/Decode.lean ====
section
/-! DEFINITION. Decoding, total on any bytes and any host-port lines and rejecting by name, then the encoder written from
the same tables (30_encoding.md), then the host's table-word decoder. -/

namespace Sys2Proof

open Sys2Proof.Machine

/-- Why something received is no instruction. -/
inductive DecodeError where
  /-- The framer's `decode` failed (R103): FrameTooShort, FrameTooLong or CrcMismatch. -/
  | badFrame (e : CoreError)
  /-- A valid frame whose payload does not have its function's format (R74, R171, R190). -/
  | badPdu (unit fn : Byte)
  /-- A valid frame whose function code is not supported (R72, R73, R169). -/
  | unsupportedFunction (unit fn : Byte)
  /-- An OPSEL value that is not in R80's table (R81). -/
  | reservedOpsel (opsel : BitVec 5)
deriving DecidableEq, Repr

/-! ### Function codes (R70) -/

/-- ReadHoldingRegisters. -/
def fnRead : Byte := 0x03

/-- Write single register. -/
def fnWriteSingle : Byte := 0x06

/-- Write multiple registers. -/
def fnWriteMultiple : Byte := 0x10

/-- Bit 7 of a function-code byte marks an exception response (R60, R67). -/
def isExceptionFn (fn : Byte) : Bool := fn.getLsbD 7

/-- The function-code byte of an exception frame: the request's code with bit 7 set (R67). -/
def exceptionFn (fn : BitVec 7) : Byte := fn.setWidth 8 ||| 0x80

/-- The request's function code in an exception frame: the seven low bits. -/
def requestFn (fn : Byte) : BitVec 7 := fn.setWidth 7

/-! ### The wire (R60 to R74) -/

/-- Format EXC: exactly one payload byte (R67). -/
def decodeException (f : Frame) : Except DecodeError Instr :=
  match f.payload with
  | [code] => .ok (.exc f.unit (requestFn f.fn) code)
  | _ => .error (.badPdu f.unit f.fn)

/-- Format RQ4 or RSP4: exactly four payload bytes, two 16-bit fields (R63, R66, R68). -/
def decodeTwoWords (f : Frame) (k : Word → Word → Instr) : Except DecodeError Instr :=
  match f.payload with
  | [a, b, c, d] => .ok (k (mk16 a b) (mk16 c d))
  | _ => .error (.badPdu f.unit f.fn)

/-- Format RQWM (R65), with the checks of R69 and R168: byteCount is twice count, as integers, and the number of
payload bytes after it. -/
def decodeWriteMultiple (f : Frame) : Except DecodeError Instr :=
  match f.payload with
  | sh :: sl :: ch :: cl :: byteCount :: rest =>
    if rest.length = byteCount.toNat ∧ byteCount.toNat = 2 * (mk16 ch cl).toNat then
      .ok (.wmr f.unit (mk16 sh sl) (bytesWords rest))
    else .error (.badPdu f.unit f.fn)
  | _ => .error (.badPdu f.unit f.fn)

/-- Format RSPRD (R64): byteCount is the number of bytes after it, and those are whole registers (R189, R190). -/
def decodeReadResponse (f : Frame) : Except DecodeError Instr :=
  match f.payload with
  | byteCount :: rest =>
    if rest.length = byteCount.toNat ∧ rest.length % 2 = 0 then .ok (.rhrR f.unit (bytesWords rest))
    else .error (.badPdu f.unit f.fn)
  | [] => .error (.badPdu f.unit f.fn)

/-- A Responder decodes every validated frame as a request (R62, R72). -/
def decodeRequest (f : Frame) : Except DecodeError Instr :=
  if isExceptionFn f.fn then decodeException f
  else if f.fn = fnRead then decodeTwoWords f (.rhr f.unit)
  else if f.fn = fnWriteSingle then decodeTwoWords f (.wsr f.unit)
  else if f.fn = fnWriteMultiple then decodeWriteMultiple f
  else .error (.unsupportedFunction f.unit f.fn)

/-- A Requester decodes every validated frame as a response (R62, R73). -/
def decodeResponse (f : Frame) : Except DecodeError Instr :=
  if isExceptionFn f.fn then decodeException f
  else if f.fn = fnRead then decodeReadResponse f
  else if f.fn = fnWriteSingle then decodeTwoWords f (.wsrR f.unit)
  else if f.fn = fnWriteMultiple then decodeTwoWords f (.wmrR f.unit)
  else .error (.unsupportedFunction f.unit f.fn)

/-- The direction of a frame is not in the frame, it is given by the role of the decoder (R62). -/
def decodeFrame (role : Role) (f : Frame) : Except DecodeError Instr :=
  match role with
  | .responder => decodeRequest f
  | .requester => decodeResponse f

/-! ### The host port (R80) -/

/-- "0 = BigEndian, 1 = LittleEndian" (R80). -/
def orderOfBit (b : BitVec 1) : Order := if b = 0 then .big else .little

/-- "0 = one register, 1 = two registers" (R80). -/
def spanOfBit (b : BitVec 1) : Span := if b = 0 then .one else .two

/-- The descriptor on the host port's lines (R80). -/
def portDescriptor (p : HostPort) : Descriptor :=
  { span := spanOfBit p.span, scale := p.scale, signed := p.signed = 1,
    byteOrder := orderOfBit p.byteOrder, wordOrder := orderOfBit p.wordOrder }

/-- The OPSEL table of R80; every other value is reserved (R81). -/
def decodeCommand (p : HostPort) : Except DecodeError Instr :=
  if p.opsel = 0x01 then .ok .crcInit
  else if p.opsel = 0x02 then .ok (.crcUpd p.b)
  else if p.opsel = 0x03 then .ok .crcRead
  else if p.opsel = 0x04 then .ok (.frmEnc p.unit p.fn p.payload)
  else if p.opsel = 0x05 then .ok (.frmDec p.raw)
  else if p.opsel = 0x08 then .ok (.rsRead p.start p.count)
  else if p.opsel = 0x09 then .ok (.rsWrite p.start p.values)
  else if p.opsel = 0x0A then .ok (.encMeas p.value (portDescriptor p))
  else if p.opsel = 0x0B then .ok (.decMeas p.words (portDescriptor p))
  else if p.opsel = 0x0C then .ok (.encScaled p.value p.scale (p.signed = 1))
  else if p.opsel = 0x0D then .ok (.decScaled p.word p.scale (p.signed = 1))
  else if p.opsel = 0x0E then .ok (.encF32 p.value (orderOfBit p.byteOrder) (orderOfBit p.wordOrder))
  else if p.opsel = 0x0F then .ok (.decF32 p.reg0 p.reg1 (orderOfBit p.byteOrder) (orderOfBit p.wordOrder))
  else if p.opsel = 0x10 then .ok (.rqSendRead p.unit p.start p.count p.timeout)
  else if p.opsel = 0x11 then .ok .rqCancel
  else if p.opsel = 0x12 then .ok (.rqReadMeas p.unit p.addr (portDescriptor p) p.timeout)
  else .error (.reservedOpsel p.opsel)

/-- The decoder: a wire frame is validated by the framer (R103) and read by the role's direction (R62); a host command
is read off its lines (R80). -/
def decode (role : Role) : Encoded → Except DecodeError Instr
  | .frame raw =>
    match frameDecode raw with
    | .ok f => decodeFrame role f
    | .error e => .error (.badFrame e)
  | .command p => decodeCommand p

/-! ### The encoder -/

/-- R80: 0 = BigEndian, 1 = LittleEndian. -/
def orderBit : Order → BitVec 1
  | .big => 0
  | .little => 1

/-- R80: 0 = one register, 1 = two registers. -/
def spanBit : Span → BitVec 1
  | .one => 0
  | .two => 1

/-- A one-bit operand. -/
def boolBit (b : Bool) : BitVec 1 := if b then 1 else 0

/-- The host port's lines with a descriptor on them. -/
def withDescriptor (p : HostPort) (d : Descriptor) : HostPort :=
  { p with span := spanBit d.span, scale := d.scale, signed := boolBit d.signed,
           byteOrder := orderBit d.byteOrder, wordOrder := orderBit d.wordOrder }

/-- `[a high][a low][b high][b low]` (R63, R66). -/
def twoWords (a b : Word) : List Byte := wordBytes [a, b]

/-- The payload of RSPRD: `[byteCount][registerValues]` (R64). -/
def readResponsePayload (words : List Word) : List Byte :=
  BitVec.ofNat 8 (2 * words.length) :: wordBytes words

/-- The payload of RQWM: `[start][count][byteCount][values]` (R65). -/
def writeMultiplePayload (start : Word) (values : List Word) : List Byte :=
  twoWords start (BitVec.ofNat 16 values.length) ++ BitVec.ofNat 8 (2 * values.length) :: wordBytes values

/-- The encoding of an instruction: the frames of R77, and the OPSEL table of R80. -/
def encode : Instr → Encoded
  | .rhr unit start count => .frame (serialize unit fnRead (twoWords start count))
  | .rhrR unit words => .frame (serialize unit fnRead (readResponsePayload words))
  | .wsr unit addr value => .frame (serialize unit fnWriteSingle (twoWords addr value))
  | .wsrR unit addr value => .frame (serialize unit fnWriteSingle (twoWords addr value))
  | .wmr unit start values => .frame (serialize unit fnWriteMultiple (writeMultiplePayload start values))
  | .wmrR unit start count => .frame (serialize unit fnWriteMultiple (twoWords start count))
  | .exc unit fn code => .frame (serialize unit (exceptionFn fn) [code])
  | .crcInit => .command { opsel := 0x01 }
  | .crcUpd b => .command { opsel := 0x02, b := b }
  | .crcRead => .command { opsel := 0x03 }
  | .frmEnc unit fn payload => .command { opsel := 0x04, unit := unit, fn := fn, payload := payload }
  | .frmDec raw => .command { opsel := 0x05, raw := raw }
  | .rsRead start count => .command { opsel := 0x08, start := start, count := count }
  | .rsWrite start values => .command { opsel := 0x09, start := start, values := values }
  | .encMeas value d => .command (withDescriptor { opsel := 0x0A, value := value } d)
  | .decMeas words d => .command (withDescriptor { opsel := 0x0B, words := words } d)
  | .encScaled value scale signed =>
    .command { opsel := 0x0C, value := value, scale := scale, signed := boolBit signed }
  | .decScaled word scale signed =>
    .command { opsel := 0x0D, word := word, scale := scale, signed := boolBit signed }
  | .encF32 value bo wo => .command { opsel := 0x0E, value := value, byteOrder := orderBit bo, wordOrder := orderBit wo }
  | .decF32 reg0 reg1 bo wo =>
    .command { opsel := 0x0F, reg0 := reg0, reg1 := reg1, byteOrder := orderBit bo, wordOrder := orderBit wo }
  | .rqSendRead unit start count timeout =>
    .command { opsel := 0x10, unit := unit, start := start, count := count, timeout := timeout }
  | .rqCancel => .command { opsel := 0x11 }
  | .rqReadMeas unit addr d timeout =>
    .command (withDescriptor { opsel := 0x12, unit := unit, addr := addr, timeout := timeout } d)

/-- The roles whose decoder reads an instruction back from its encoding (R62): requests a Responder, responses a
Requester, exception frames and host commands both. WSR.R is read by a Requester only, since a Responder reads the same
bytes as WSR. -/
def readBy (role : Role) : Instr → Bool
  | .rhr _ _ _ | .wsr _ _ _ | .wmr _ _ _ => role = .responder
  | .rhrR _ _ | .wsrR _ _ _ | .wmrR _ _ _ => role = .requester
  | .exc _ _ _ => true
  | .crcInit | .crcUpd _ | .crcRead | .frmEnc _ _ _ | .frmDec _ | .rsRead _ _ | .rsWrite _ _ => true
  | .encMeas _ _ | .decMeas _ _ | .encScaled _ _ _ | .decScaled _ _ _ | .encF32 _ _ _ | .decF32 _ _ _ _ => true
  | .rqSendRead _ _ _ _ | .rqCancel | .rqReadMeas _ _ _ _ => true

/-! ### Words of the opcode table

The table has two spaces, the wire's function-code byte and the host port's OPSEL, and it gives no bit to say which: the
byte `0x03` is RHR, RHR.R and CRC.READ, `0x06` is WSR and WSR.R, `0x10` is WMR, WMR.R and RQ.SENDREAD (log 9). -/

/-- A table word of at least 8 bits is a function code when its byte is one a Responder decodes as a frame of the table;
every other byte is an OPSEL (log 9). -/
def tableWordIsFrame (nbits w : Nat) : Bool :=
  let fn := BitVec.ofNat 8 w
  decide (8 ≤ nbits) && (isExceptionFn fn || fn = fnRead || fn = fnWriteSingle || fn = fnWriteMultiple)

/-- The frame of a function code, every operand byte zero, addressed to unit 1 (the byte before the table's; log 9). -/
def tableFrame (fn : Byte) : List Byte :=
  serialize 1 fn
    (if isExceptionFn fn then [0] else if fn = fnWriteMultiple then List.replicate 5 0 else List.replicate 4 0)

/-- What arrives at the block for a table word: a frame, or a command whose operand lines are all zero. -/
def tableEncoded (nbits w : Nat) : Encoded :=
  if tableWordIsFrame nbits w then .frame (tableFrame (BitVec.ofNat 8 w))
  else .command { opsel := BitVec.ofNat 5 w }

/-- The instruction the decoder of a Responder, the role of `State.reset`, reads from a table word. -/
def decodeTableWord (nbits w : Nat) : Option Instr :=
  (decode .responder (tableEncoded nbits w)).toOption

end Sys2Proof
end

