-- ==== Sys2Proof/Machine/Float.lean ====
section
/-! DEFINITION. IEEE-754 binary32 and binary64 as exact integers (43_codec.md R137, R138, R145, R146, R149). A finite
value is a sign and a whole number of UNITS, the format's least positive subnormal; every operation is computed exactly
on units and rounded once. -/

namespace Sys2Proof.Machine

/-- A binary interchange format: the widths of its exponent and fraction fields (R146). -/
structure FloatFormat where
  expBits  : Nat
  fracBits : Nat
deriving DecidableEq, Repr

/-- binary32: sign [31], exponent [30:23], fraction [22:0] (R146). -/
def binary32 : FloatFormat := ⟨8, 23⟩

/-- binary64: sign [63], exponent [62:52], fraction [51:0] (R146). -/
def binary64 : FloatFormat := ⟨11, 52⟩

/-- The exponent field, all ones for infinities and NaNs. -/
def floatExp (fmt : FloatFormat) (pattern : Nat) : Nat := pattern / 2 ^ fmt.fracBits % 2 ^ fmt.expBits

/-- The fraction field. -/
def floatFrac (fmt : FloatFormat) (pattern : Nat) : Nat := pattern % 2 ^ fmt.fracBits

/-- The sign bit, above the exponent field; true for negative. -/
def floatSign (fmt : FloatFormat) (pattern : Nat) : Bool := pattern.testBit (fmt.fracBits + fmt.expBits)

/-- The value of the exponent field when all its bits are ones. -/
def expAllOnes (fmt : FloatFormat) : Nat := 2 ^ fmt.expBits - 1

/-- Infinity or NaN: exponent field all ones (R146, R148). -/
def isNonfinite (fmt : FloatFormat) (pattern : Nat) : Bool := floatExp fmt pattern = expAllOnes fmt

/-- NaN: exponent field all ones and a fraction that is not zero (R146). -/
def isNaN (fmt : FloatFormat) (pattern : Nat) : Bool := isNonfinite fmt pattern && floatFrac fmt pattern != 0

/-- One unit is 2 to the power of minus this: 149 in binary32, 1074 in binary64. -/
def unitExp (fmt : FloatFormat) : Nat := 2 ^ (fmt.expBits - 1) - 1 + fmt.fracBits - 1

/-- How many units make 1. -/
def unitsPerOne (fmt : FloatFormat) : Nat := 2 ^ unitExp fmt

/-- The magnitude of a finite pattern, in units: the significand of R146 (with its leading 1 when the exponent field is
not 0) times 2 to the power of the exponent field less one. -/
def floatUnits (fmt : FloatFormat) (pattern : Nat) : Nat :=
  let e := floatExp fmt pattern
  let f := floatFrac fmt pattern
  if e = 0 then f else (2 ^ fmt.fracBits + f) * 2 ^ (e - 1)

/-- The pattern of plus infinity. -/
def infinityPattern (fmt : FloatFormat) : Nat := expAllOnes fmt * 2 ^ fmt.fracBits

/-- The integer nearest to `num / den`, at a tie the even one. -/
def roundHalfEven (num den : Nat) : Nat :=
  let q := num / den
  let r := num % den
  if 2 * r < den then q else if den < 2 * r then q + 1 else q + q % 2

/-- The pattern (sign bit 0) of the non-negative rational `num / den` rounded to nearest, ties to even, with gradual
underflow and overflow to infinity (R137, R140, R145). `shift` is how far the exponent stands above the subnormals', so
that the significand has at most `fracBits + 1` bits; a significand rounded up to the next power of two carries into the
exponent field by itself. -/
def roundMagnitude (fmt : FloatFormat) (num den : Nat) : Nat :=
  let units := num * unitsPerOne fmt
  let shift := Nat.log2 (units / den) - fmt.fracBits
  let significand := roundHalfEven units (den * 2 ^ shift)
  min (shift * 2 ^ fmt.fracBits + significand) (infinityPattern fmt)

/-- A pattern from its sign and its magnitude's pattern. -/
def signedPattern (fmt : FloatFormat) (sign : Bool) (magnitude : Nat) : Nat :=
  (if sign then 2 ^ (fmt.fracBits + fmt.expBits) else 0) + magnitude

/-- `f64(n)` for an integer: exact for every 16-bit integer (R137, R140). -/
def f64OfInt (n : Int) : F64 :=
  BitVec.ofNat 64 (signedPattern binary64 (n < 0) (roundMagnitude binary64 n.natAbs 1))

/-- `a ×64 b` for finite operands: one binary64 multiplication, round to nearest, ties to even (R137). -/
def mulF64 (a b : F64) : F64 :=
  BitVec.ofNat 64 (signedPattern binary64 (floatSign binary64 a.toNat != floatSign binary64 b.toNat)
    (roundMagnitude binary64 (floatUnits binary64 a.toNat * floatUnits binary64 b.toNat)
      (unitsPerOne binary64 * unitsPerOne binary64)))

/-- `a ÷64 b` for finite operands, `b` not zero: one binary64 division, round to nearest, ties to even (R140). -/
def divF64 (a b : F64) : F64 :=
  BitVec.ofNat 64 (signedPattern binary64 (floatSign binary64 a.toNat != floatSign binary64 b.toNat)
    (roundMagnitude binary64 (floatUnits binary64 a.toNat) (floatUnits binary64 b.toNat)))

/-- `round_haz(p)`, round half away from zero, of a finite `p`: the sign times the floor of the magnitude plus one half,
taken exactly (R138). -/
def roundHalfAway (p : F64) : Int :=
  let magnitude := (2 * floatUnits binary64 p.toNat + unitsPerOne binary64) / (2 * unitsPerOne binary64)
  if floatSign binary64 p.toNat then -(magnitude : Int) else magnitude

/-- `bits32(narrow(value))` (R145). A NaN keeps its sign and its top 23 fraction bits and becomes quiet (logs 16, 17). -/
def narrow (value : F64) : BitVec 32 :=
  let v := value.toNat
  let magnitude :=
    if isNaN binary64 v then infinityPattern binary32 + (floatFrac binary64 v / 2 ^ 29 ||| 0x400000)
    else if isNonfinite binary64 v then infinityPattern binary32
    else roundMagnitude binary32 (floatUnits binary64 v) (unitsPerOne binary64)
  BitVec.ofNat 32 (signedPattern binary32 (floatSign binary64 v) magnitude)

/-- `widen(bits)` (R149): exact for every finite pattern and both infinities; a NaN keeps its sign and payload and
becomes quiet (U6, log 16). -/
def widen (bits : BitVec 32) : F64 :=
  let v := bits.toNat
  let magnitude :=
    if isNaN binary32 v then infinityPattern binary64 + (floatFrac binary32 v * 2 ^ 29 ||| 2 ^ 51)
    else if isNonfinite binary32 v then infinityPattern binary64
    else roundMagnitude binary64 (floatUnits binary32 v) (unitsPerOne binary32)
  BitVec.ofNat 64 (signedPattern binary64 (floatSign binary32 v) magnitude)

end Sys2Proof.Machine
end

