-- ==== Sys2Proof/Machine/Operands.lean ====
section
/-! DEFINITION. Operand forms: the descriptor, the order of a float's two registers, and which operand values a command
refuses before it starts (43_codec.md R141, R143, R151; 60_exceptions.md R226; U4, U5, U7). -/

namespace Sys2Proof.Machine

/-- The number of registers of a span (R151, R195). -/
def spanRegs : Span → Nat
  | .one => 1
  | .two => 2

/-- `scale` is a positive integer; 0 is refused (R141, U5). -/
def scaleLegal (scale : Word) : Bool := scale != 0

/-- A descriptor's scale is used by span 1 only, so only there is 0 refused (R151, U5; DEDUCED, log 13). -/
def descriptorLegal (d : Descriptor) : Bool :=
  match d.span with
  | .one => scaleLegal d.scale
  | .two => true

/-- A read is sent to units 1..247 only; another unit is refused (R187, U7). -/
def unitLegal (unit : Byte) : Bool := 1 ≤ unit.toNat && unit.toNat ≤ 247

/-- `sext_16(word)` when signed, `zext_16(word)` otherwise (R140). -/
def wordInt (signed : Bool) (word : Word) : Int := if signed then word.toInt else word.toNat

/-- `byteOrder = LittleEndian` swaps the two bytes inside a register (R143). -/
def applyByteOrder (byteOrder : Order) (w : Word) : Word :=
  match byteOrder with
  | .big => w
  | .little => bswap16 w

/-- `pack_order(bits, byteOrder, wordOrder)`: `(reg0, reg1)`, reg0 at the lower address (R143). -/
def packOrder (bits : BitVec 32) (byteOrder wordOrder : Order) : Word × Word :=
  let high := applyByteOrder byteOrder (bits.extractLsb' 16 16)
  let low := applyByteOrder byteOrder (bits.extractLsb' 0 16)
  match wordOrder with
  | .big => (high, low)
  | .little => (low, high)

/-- `unpack_order(reg0, reg1, byteOrder, wordOrder)` (R143). -/
def unpackOrder (reg0 reg1 : Word) (byteOrder wordOrder : Order) : BitVec 32 :=
  let (high, low) := match wordOrder with
    | .big => (reg0, reg1)
    | .little => (reg1, reg0)
  ((applyByteOrder byteOrder high).setWidth 32 <<< 16) ||| (applyByteOrder byteOrder low).setWidth 32

/-- `mapped(a)`, the address-decode predicate; false for every number outside 0..65535 (R21). -/
def mapped (c : Config) (a : Nat) : Bool :=
  match c.layout with
  | .dense => decide (a ≤ 65535 ∧ c.denseBase.toNat ≤ a ∧ a + 1 ≤ c.denseBase.toNat + c.denseCount.toNat)
  | .sparse => c.sparseMap.any (fun x => x.toNat = a)

/-- `valid(start, count)`: the one validation of a register access, without wrap-around (R121, R122). -/
def validRange (c : Config) (start count : Nat) : Bool :=
  decide (count ≠ 0 ∧ count ≤ 125 ∧ start + count - 1 ≤ 65535) &&
    (List.range count).all (fun i => mapped c (start + i))

end Sys2Proof.Machine
end

