-- ==== Sys2Proof/Machine/Codec.lean ====
section
/-! DEFINITION. The Codec: pure conversions between engineering values and register words (43_codec.md). -/

namespace Sys2Proof.Machine

/-- ENC.SCALED on a legal scale (R136): NaN and infinity, an infinite product, and a rounded integer outside the word's
range all give ValueOutOfRange (R226). -/
def encScaled (value : F64) (scale : Word) (signed : Bool) : Except CoreError Word :=
  if isNonfinite binary64 value.toNat then .error .valueOutOfRange
  else
    let p := mulF64 value (f64OfInt scale.toNat)
    if isNonfinite binary64 p.toNat then .error .valueOutOfRange
    else
      let r := roundHalfAway p
      if signed then
        if r < -32768 ∨ 32767 < r then .error .valueOutOfRange else .ok (BitVec.ofInt 16 r)
      else
        if r < 0 ∨ 65535 < r then .error .valueOutOfRange else .ok (BitVec.ofInt 16 r)

/-- DEC.SCALED on a legal scale (R140): it cannot fail. -/
def decScaled (word scale : Word) (signed : Bool) : F64 :=
  divF64 (f64OfInt (wordInt signed word)) (f64OfInt scale.toNat)

/-- ENC.F32 (R144): total. -/
def encF32 (value : F64) (byteOrder wordOrder : Order) : Word × Word :=
  packOrder (narrow value) byteOrder wordOrder

/-- DEC.F32 (R147): a pattern with the exponent field all ones is MalformedFloat unless ACCEPT_NONFINITE is set (R148). -/
def decF32 (acceptNonfinite : Bool) (reg0 reg1 : Word) (byteOrder wordOrder : Order) : Except CoreError F64 :=
  let bits := unpackOrder reg0 reg1 byteOrder wordOrder
  if isNonfinite binary32 bits.toNat && !acceptNonfinite then .error .malformedFloat
  else .ok (widen bits)

/-- ENC.MEAS: by descriptor, the words in address order (R152); an illegal descriptor is refused (U5). -/
def encMeas (value : F64) (d : Descriptor) : Except CoreError (List Word) :=
  if !descriptorLegal d then .error .refused
  else match d.span with
    | .one =>
      match encScaled value d.scale d.signed with
      | .ok w => .ok [w]
      | .error e => .error e
    | .two =>
      let (reg0, reg1) := encF32 value d.byteOrder d.wordOrder
      .ok [reg0, reg1]

/-- DEC.MEAS (R153): a number of words that is not the span's (U4), or an illegal descriptor (U5), is refused. byteOrder
is not applied to a span-1 word (R154). -/
def decMeas (acceptNonfinite : Bool) (words : List Word) (d : Descriptor) : Except CoreError F64 :=
  if !descriptorLegal d then .error .refused
  else match d.span, words with
    | .one, [w] => .ok (decScaled w d.scale d.signed)
    | .two, [reg0, reg1] => decF32 acceptNonfinite reg0 reg1 d.byteOrder d.wordOrder
    | _, _ => .error .refused

end Sys2Proof.Machine
end

