-- ==== Sys2Proof/Machine/State.lean ====
section
/-! DEFINITION. The state of the block, plain data (10_state.md), what reaches it and leaves it, and reset. -/

namespace Sys2Proof.Machine

/-- The holding-register file: (address, word) pairs, one for each register that exists, at strictly rising addresses
(R12). The unit is the 16-bit register, the smallest the spec lets anything address (R26, R43). An address that is not
listed is absent, not zero (R126; log 1). -/
abbrev Memory := List (Nat × Word)

/-- `rstate` (R14). `frameValidated` and `dispatched` are held inside the step of one Gap35 only. -/
inductive RState where
  | idle
  | frameReceiving
  | frameValidated
  | dispatched
deriving DecidableEq, Repr

/-- `qstate` (R15). -/
inductive QState where
  | idle
  | awaitingResponse
deriving DecidableEq, Repr

/-- The in-flight record of a requester (R24). -/
structure Inflight where
  unit  : Byte
  fn    : Byte
  start : Word
  count : Word
deriving DecidableEq, Repr

/-- What reaches the block from outside, one a step (R10, R220, R221): the transport adapter's events, the response
timer's, a command on the host port (R80), and reset with the static inputs and INIT as they stand (R240, R242; DESIGN CHOICE, log 15). -/
inductive Input where
  | rxByte (b : Byte)
  | gap15
  | gap35
  | timeoutExpire
  | command (p : HostPort)
  | reset (cfg : Config) (seed : Memory)
deriving DecidableEq, Repr

/-- The results of host commands (R80); `done` acknowledges a command R80 gives no result (DESIGN CHOICE, log 11). -/
inductive HostValue where
  | done
  | word (w : Word)
  | words (ws : List Word)
  | bytes (bs : List Byte)
  | frame (unit fn : Byte) (payload : List Byte)
  | float (x : F64)
deriving DecidableEq, Repr

/-- What leaves the block: a frame handed whole to the adapter (R112), the result of the command of this step (R80), the
result of the pending command (`complete`, R186), and the arming and disarming of the response timer (R185, R235; DEDUCED, log 14). -/
inductive Output where
  | emit (bytes : List Byte)
  | result (r : Except CoreError HostValue)
  | completion (r : Except CoreError HostValue)
  | armTimer (timeout : BitVec 32)
  | disarmTimer
deriving DecidableEq, Repr

/-- The state of an instance. The fields of the role the instance does not have are there and inert (log 5). `inputs`
and `outputs` are the environment's: what it will present, oldest first, and everything the block has put out so far,
oldest first (log 2). `pendingMeas` is the descriptor of a RQ.READMEAS in flight (R195; DEDUCED, log 7). -/
structure State where
  cfg         : Config
  hr          : Memory
  rstate      : RState
  qstate      : QState
  rxbuf       : Vector Byte 256
  rxlen       : Nat
  rxovf       : Bool
  gaperr      : Bool
  inflight    : Inflight
  expired     : Bool
  pendingMeas : Option Descriptor
  crcAcc      : Word
  inputs      : List Input
  outputs     : List Output
deriving DecidableEq, Repr

/-- No step stops with a fault: "A model should therefore make every error a value returned by a total step function,
not a stuck or faulted machine state" (R217). The type has no constructor. -/
inductive Fault where
deriving DecidableEq, Repr

/-- Why the model has no meaning for a step. -/
inductive Refusal where
  /-- Raised by an arm of `exec` whose instruction has no meaning yet; safe (the model stops). No arm raises it. -/
  | notModelled (mnemonic : String)
  /-- Raised by a step that takes a reset with an illegal configuration or an INIT that is not total on MAPPED: "the
  model does not construct such an instance" (U3, R17); safe (the model stops). No instruction raises it. -/
  | illegalConfiguration
deriving DecidableEq, Repr

namespace State

/-- The state after reset with the straps `cfg` and the registers `seed` (R29, R240). `rxbuf` and `inflight`, which R29
leaves unspecified, are zeros (DESIGN CHOICE, log 4). -/
def resetWith (cfg : Config) (seed : Memory) (inputs : List Input) (outputs : List Output) : State :=
  { cfg := cfg, hr := seed, rstate := .idle, qstate := .idle,
    rxbuf := Vector.replicate 256 0, rxlen := 0, rxovf := false, gaperr := false,
    inflight := { unit := 0, fn := 0, start := 0, count := 0 }, expired := false,
    pendingMeas := none, crcAcc := 0xFFFF, inputs := inputs, outputs := outputs }

/-- The machine right after reset: the straps `Config.atReset`, whose 256 registers hold zero (DESIGN CHOICE, log 3: the
spec gives no seed), with nothing presented yet. -/
def reset : State :=
  resetWith Config.atReset ((List.range 256).map (fun a => (a, 0))) [] []

end State

end Sys2Proof.Machine
end

