-- ==== Sys2Proof/Machine/Flags.lean ====
section
/-! DEFINITION. The block has no condition codes (10_state.md R16). Its one-bit fields are the bookkeeping of the receive
path: `rxovf` and `gaperr`, written here with the receive buffer (R23; 41_framer.md R107 to R109), and `expired`,
written in Ops.lean (R192). -/

namespace Sys2Proof.Machine

/-- What `rx_close` answers (R109). -/
inductive Window where
  | noWindow
  | dropped (e : CoreError)
  | frame (f : Frame)
deriving DecidableEq, Repr

namespace State

/-- The bytes of the window being received: `rxbuf[0..rxlen]`. -/
def window (s : State) : List Byte := s.rxbuf.toList.take s.rxlen

/-- `rx_push(b)` (R107). -/
def rxPush (b : Byte) (s : State) : State :=
  if s.gaperr then s
  else if frameMax ≤ s.rxlen then { s with rxovf := true }
  else { s with rxbuf := s.rxbuf.setIfInBounds s.rxlen b, rxlen := s.rxlen + 1 }

/-- `rx_gap15()` (R108). -/
def rxGap15 (s : State) : State :=
  if 0 < s.rxlen then { s with gaperr := true } else s

/-- `rxlen <- 0 ; rxovf <- 0 ; gaperr <- 0` (R109, R186, R187). -/
def rxClear (s : State) : State :=
  { s with rxlen := 0, rxovf := false, gaperr := false }

/-- The outcome of `rx_close()` (R109); the state it leaves is `rxClear`. -/
def rxOutcome (s : State) : Window :=
  if s.rxlen = 0 then .noWindow
  else if s.gaperr then .dropped .frameTimeout
  else if s.rxovf then .dropped .frameTooLong
  else match frameDecode s.window with
    | .ok f => .frame f
    | .error e => .dropped e

end State

end Sys2Proof.Machine
end

