-- ==== Sys2Proof/Machine/Ops.lean ====
section
/-! DEFINITION. The operations the instructions share: the register file, what the block puts out, the responder's unit
filter, response and exception frames (the block's counterpart of taking an exception, R216), and the requester's
completion of an exchange (the counterpart of returning from one). -/

namespace Sys2Proof.Machine

/-! ### The register file (42_regfile.md) -/

namespace Memory

/-- The canonical form: strictly rising addresses. No listed cell can equal what an unlisted address reads as, since
that is no value at all (R126). -/
def wf (m : Memory) : Bool := decide ((m.map Prod.fst).Pairwise (· < ·))

/-- The word at an address, or none where the address is absent (R12, R126). -/
def read : Memory → Nat → Option Word
  | [], _ => none
  | (b, w) :: rest, a => if b = a then some w else read rest a

/-- `hr[a] <- v`: "overwrites existing words", and creates nothing at an absent address (R22, R124). -/
def write (m : Memory) (a : Nat) (v : Word) : Memory :=
  m.map (fun c => if c.1 = a then (c.1, v) else c)

/-- `MemRead(start, n)` (00_scope.md section 5.2): none if any of the addresses is absent. -/
def readMany (m : Memory) (start : Nat) : Nat → Option (List Word)
  | 0 => some []
  | n + 1 =>
    match read m start, readMany m (start + 1) n with
    | some w, some ws => some (w :: ws)
    | _, _ => none

/-- `MemWrite(start, n, values)` (00_scope.md section 5.2): value `i` to `start + i` (R124). -/
def writeMany (m : Memory) (start : Nat) : List Word → Memory
  | [] => m
  | v :: vs => writeMany (write m start v) (start + 1) vs

end Memory

/-- The addresses of MAPPED, from the straps (R21). -/
def mappedAddresses (c : Config) : List Nat :=
  match c.layout with
  | .dense => List.range' c.denseBase.toNat c.denseCount.toNat
  | .sparse => c.sparseMap.map BitVec.toNat

/-- A register file that holds a word for exactly the addresses of MAPPED, in canonical form (R12, R22, R29); a
Requester has no register file (R12, R185). -/
def seededBy (c : Config) (m : Memory) : Bool :=
  match c.role with
  | .requester => m.isEmpty
  | .responder =>
    m.wf && m.all (fun cell => mapped c cell.1) &&
      (mappedAddresses c).all (fun a => (m.read a).isSome)

namespace State

/-- RS.READ's result (R123). -/
def readRegs (s : State) (start count : Nat) : Except CoreError (List Word) :=
  if validRange s.cfg start count then
    match s.hr.readMany start count with
    | some ws => .ok ws
    | none => .error .illegalDataAddress
  else .error .illegalDataAddress

/-- RS.WRITE's result and the register file it leaves (R124): all or nothing (R46). -/
def writeRegs (s : State) (start : Nat) (values : List Word) : Except CoreError Memory :=
  if validRange s.cfg start values.length then .ok (s.hr.writeMany start values)
  else .error .illegalDataAddress

/-! ### What the block puts out -/

/-- One more output, after those before it. -/
def put (o : Output) (s : State) : State := { s with outputs := s.outputs ++ [o] }

/-- The result of the command of this step (R80). -/
def deliver (r : Except CoreError HostValue) (s : State) : State := s.put (.result r)

/-- `emit(encode(unit, fn, payload))`: a failed `encode` emits nothing (R112). -/
def emitFrame (unit fn : Byte) (payload : List Byte) (s : State) : State :=
  match frameEncode unit fn payload with
  | .ok bytes => s.put (.emit bytes)
  | .error _ => s

/-- "A command is accepted only in an instance whose ROLE has the part it needs" (R80); in the other it is answered
Refused and changes no state (R81, U4; DESIGN CHOICE, log 10). -/
def inRole (role : Role) (k : State → State) (s : State) : State :=
  if s.cfg.role = role then k s else s.deliver (.error .refused)

/-! ### The responder (44_responder.md) -/

/-- The exception response `exception(f, code)`: the frame `[unit][fn | 0x80][code]` and no other effect (R170). -/
def respondException (unit fn code : Byte) (s : State) : State :=
  s.emitFrame unit (fn ||| 0x80) [code]

/-- The end of a validated window (R163): the unit filter, by equality with UNIT (R164), then the function's own
action between `Dispatched` and `Idle`. -/
def serve (unit : Byte) (action : State → State) (s : State) : State :=
  let validated : State := { s with rstate := .frameValidated }
  if unit ≠ s.cfg.unit then { validated with rstate := .idle }
  else { action { validated with rstate := .dispatched } with rstate := .idle }

/-- `exec_read` past its format check (R166). -/
def serveRead (start count : Word) (s : State) : State :=
  match s.readRegs start.toNat count.toNat with
  | .ok ws => s.emitFrame s.cfg.unit fnRead (readResponsePayload ws)
  | .error _ => s.respondException s.cfg.unit fnRead codeIllegalDataAddress

/-- A write over the wire: on success the normal response, on an error of the register file the exception frame with its
code (R167, R168, R170). -/
def serveWrite (fn : Byte) (start : Word) (values : List Word) (response : List Byte) (s : State) : State :=
  match s.writeRegs start.toNat values with
  | .ok hr => ({ s with hr := hr } : State).emitFrame s.cfg.unit fn response
  | .error _ => s.respondException s.cfg.unit fn codeIllegalDataAddress

/-- What a responder does with a validated frame that is no instruction (R224, tests 5 to 8): another unit's is ignored;
a function code with bit 7 set is dropped (R169); an unsupported one is answered IllegalFunction (R169), a payload that
does not fit its function IllegalDataValue (R171). -/
def rejectRequest (e : DecodeError) (s : State) : State :=
  match e with
  | .badPdu unit fn =>
    s.serve unit (fun s => if isExceptionFn fn then s else s.respondException unit fn codeIllegalDataValue)
  | .unsupportedFunction unit fn => s.serve unit (respondException unit fn codeIllegalFunction)
  | .badFrame _ => { s with rstate := .idle }
  | .reservedOpsel _ => s

/-! ### The requester (45_requester.md) -/

/-- The result a pending command gets from the words of its exchange: RQ.SENDREAD's is the words, RQ.READMEAS's is
`DEC.MEAS` of them (R195). -/
def pendingResult (s : State) (r : Except CoreError (List Word)) : Except CoreError HostValue :=
  match r with
  | .error e => .error e
  | .ok ws =>
    match s.pendingMeas with
    | none => .ok (.words ws)
    | some d =>
      match decMeas s.cfg.acceptNonfinite ws d with
      | .ok x => .ok (.float x)
      | .error e => .error e

/-- `complete(res)` (R186): deliver the result of the pending command, disarm the timer, `expired <- 0`, clear the
receive buffer, `qstate <- Idle`. -/
def complete (r : Except CoreError (List Word)) (s : State) : State :=
  { ((s.put (.completion (s.pendingResult r))).put .disarmTimer).rxClear with
      expired := false, pendingMeas := none, qstate := .idle }

/-- `discard_window()` (R189): the wait goes on, unless the timeout has already expired. -/
def discardWindow (s : State) : State :=
  if s.expired then s.complete (.error .responseTimeout) else s

/-- What a requester does with a window classified as `c` (R189): complete the exchange with a matching response, discard
any other (`none`). Outside an exchange nothing is received (R188). -/
def settle (c : Option (Except CoreError (List Word))) (s : State) : State :=
  match s.qstate with
  | .idle => s
  | .awaitingResponse =>
    match c with
    | some r => s.complete r
    | none => s.discardWindow

/-- Issuing a read (R187, R195). An exchange in flight answers Busy before the operands are looked at (R186: "always"; DEDUCED, log 12);
an illegal unit or descriptor is Refused with no frame sent (U5, U7). -/
def startRead (unit : Byte) (start count : Word) (timeout : BitVec 32) (meas : Option Descriptor) (s : State) : State :=
  if s.qstate ≠ .idle then s.deliver (.error .busy)
  else if !unitLegal unit || !(meas.all descriptorLegal) then s.deliver (.error .refused)
  else
    { ((s.rxClear.emitFrame unit fnRead (twoWords start count)).put (.armTimer timeout)) with
        inflight := { unit := unit, fn := fnRead, start := start, count := count },
        expired := false, pendingMeas := meas, qstate := .awaitingResponse }

/-- `TimeoutExpire` (R188, R192): a window being received is judged when it closes. -/
def onTimeout (s : State) : State :=
  match s.qstate with
  | .idle => s
  | .awaitingResponse =>
    if s.rxlen = 0 then s.complete (.error .responseTimeout) else { s with expired := true }

/-! ### Receive events (R161, R162, R188) -/

/-- `RxByte(b)`. -/
def onRxByte (b : Byte) (s : State) : State :=
  match s.cfg.role with
  | .responder => (if s.rstate = .idle then { s with rstate := .frameReceiving } else s : State).rxPush b
  | .requester =>
    match s.qstate with
    | .idle => s
    | .awaitingResponse => s.rxPush b

/-- `Gap15`. -/
def onGap15 (s : State) : State :=
  match s.cfg.role with
  | .responder => s.rxGap15
  | .requester =>
    match s.qstate with
    | .idle => s
    | .awaitingResponse => s.rxGap15

end State

end Sys2Proof.Machine
end

