-- ==== Sys2Proof/Machine/CodecCommands.lean ====
section
/-! DEFINITION. The Codec's host commands (43_codec.md). They read no register of the file and write no state (R135); an
illegal operand value is answered Refused before the operation starts (R226, U4, U5). -/

namespace Sys2Proof.Machine

/-- ENC.MEAS (R152). -/
def execEncMeas (value : F64) (d : Descriptor) (s : State) : Host.Outcome State Fault Refusal :=
  .next (s.deliver ((encMeas value d).map .words))

/-- DEC.MEAS (R153). -/
def execDecMeas (words : List Word) (d : Descriptor) (s : State) : Host.Outcome State Fault Refusal :=
  .next (s.deliver ((decMeas s.cfg.acceptNonfinite words d).map .float))

/-- ENC.SCALED (R136). -/
def execEncScaled (value : F64) (scale : Word) (signed : Bool) (s : State) : Host.Outcome State Fault Refusal :=
  .next (s.deliver (if scaleLegal scale then (encScaled value scale signed).map .word else .error .refused))

/-- DEC.SCALED (R140). -/
def execDecScaled (word scale : Word) (signed : Bool) (s : State) : Host.Outcome State Fault Refusal :=
  .next (s.deliver (if scaleLegal scale then .ok (.float (decScaled word scale signed)) else .error .refused))

/-- ENC.F32 (R144): the result is `(reg0, reg1)`. -/
def execEncF32 (value : F64) (byteOrder wordOrder : Order) (s : State) : Host.Outcome State Fault Refusal :=
  let regs := encF32 value byteOrder wordOrder
  .next (s.deliver (.ok (.words [regs.1, regs.2])))

/-- DEC.F32 (R147). -/
def execDecF32 (reg0 reg1 : Word) (byteOrder wordOrder : Order) (s : State) : Host.Outcome State Fault Refusal :=
  .next (s.deliver ((decF32 s.cfg.acceptNonfinite reg0 reg1 byteOrder wordOrder).map .float))

end Sys2Proof.Machine
end

