-- ==== Sys2Proof/Machine/CrcCommands.lean ====
section
/-! DEFINITION. CRC.INIT, CRC.UPD, CRC.READ (40_crc.md R94 to R96). The three commands that reach `crc_acc` (R20). -/

namespace Sys2Proof.Machine

/-- CRC.INIT (R94): `crc_acc <- 0xFFFF`. -/
def execCrcInit (s : State) : Host.Outcome State Fault Refusal :=
  .next (({ s with crcAcc := crcInitial } : State).deliver (.ok .done))

/-- CRC.UPD b (R95): `crc_acc <- crc_step(crc_acc, b)`. -/
def execCrcUpd (b : Byte) (s : State) : Host.Outcome State Fault Refusal :=
  .next (({ s with crcAcc := crcStep s.crcAcc b } : State).deliver (.ok .done))

/-- CRC.READ (R96): returns `crc_acc`, which it does not change. -/
def execCrcRead (s : State) : Host.Outcome State Fault Refusal :=
  .next (s.deliver (.ok (.word s.crcAcc)))

end Sys2Proof.Machine
end

