-- ==== Sys2Proof/Machine/FramerCommands.lean ====
section
/-! DEFINITION. FRM.ENC and FRM.DEC (41_framer.md R100, R103). They write no state (R102). -/

namespace Sys2Proof.Machine

/-- FRM.ENC (R100, R101). -/
def execFrmEnc (unit fn : Byte) (payload : List Byte) (s : State) : Host.Outcome State Fault Refusal :=
  .next (s.deliver ((frameEncode unit fn payload).map .bytes))

/-- FRM.DEC (R103, R111): the framing errors are returned to the host. -/
def execFrmDec (raw : List Byte) (s : State) : Host.Outcome State Fault Refusal :=
  .next (s.deliver ((frameDecode raw).map (fun f => .frame f.unit f.fn f.payload)))

end Sys2Proof.Machine
end

