-- ==== Sys2Proof/Machine/RegfileCommands.lean ====
section
/-! DEFINITION. RS.READ and RS.WRITE, the host's path to the register file (42_regfile.md R123, R124). -/

namespace Sys2Proof.Machine

/-- RS.READ (R123): no side effect. -/
def execRsRead (start count : Word) (s : State) : Host.Outcome State Fault Refusal :=
  .next (s.inRole .responder (fun s => s.deliver ((s.readRegs start.toNat count.toNat).map .words)))

/-- RS.WRITE (R124): all of the words or none of them. -/
def execRsWrite (start : Word) (values : List Word) (s : State) : Host.Outcome State Fault Refusal :=
  .next (s.inRole .responder (fun s =>
    match s.writeRegs start.toNat values with
    | .ok hr => ({ s with hr := hr } : State).deliver (.ok .done)
    | .error e => s.deliver (.error e)))

end Sys2Proof.Machine
end

