-- ==== Sys2Proof/Machine/RequesterCommands.lean ====
section
/-! DEFINITION. RQ.SENDREAD, RQ.CANCEL, RQ.READMEAS (45_requester.md R187, R194, R195). -/

namespace Sys2Proof.Machine

/-- RQ.SENDREAD (R187). -/
def execRqSendRead (unit : Byte) (start count : Word) (timeout : BitVec 32) (s : State) :
    Host.Outcome State Fault Refusal :=
  .next (s.inRole .requester (State.startRead unit start count timeout none))

/-- RQ.CANCEL (R194): the pending command gets Cancelled; in Idle it does nothing. -/
def execRqCancel (s : State) : Host.Outcome State Fault Refusal :=
  .next (s.inRole .requester (fun s =>
    match s.qstate with
    | .idle => s.deliver (.ok .done)
    | .awaitingResponse => (s.complete (.error .cancelled)).deliver (.ok .done)))

/-- RQ.READMEAS (R195): a read of as many registers as the span has; `complete` decodes the words. -/
def execRqReadMeas (unit : Byte) (addr : Word) (d : Descriptor) (timeout : BitVec 32) (s : State) :
    Host.Outcome State Fault Refusal :=
  .next (s.inRole .requester
    (State.startRead unit addr (BitVec.ofNat 16 (spanRegs d.span)) timeout (some d)))

end Sys2Proof.Machine
end

