-- ==== Sys2Proof/Machine/Requests.lean ====
section
/-! DEFINITION. The request frames RHR, WSR, WMR (44_responder.md R166 to R168). The meaning of a wire frame is what an
instance does once its receive path has validated the frame: a Responder executes it, a Requester takes it for a
response (R62), which a request's never matches, so it is discarded (R189; DEDUCED, log 21). -/

namespace Sys2Proof.Machine

/-- RHR (R166). At a Requester a function-0x03 payload of four bytes fails the byteCount test: 3 is not twice a count. -/
def execRhr (unit : Byte) (start count : Word) (s : State) : Host.Outcome State Fault Refusal :=
  match s.cfg.role with
  | .responder => .next (s.serve unit (State.serveRead start count))
  | .requester => .next (s.settle none)

/-- WSR (R167): the response is the request repeated. -/
def execWsr (unit : Byte) (addr value : Word) (s : State) : Host.Outcome State Fault Refusal :=
  match s.cfg.role with
  | .responder => .next (s.serve unit (State.serveWrite fnWriteSingle addr [value] (twoWords addr value)))
  | .requester => .next (s.settle none)

/-- WMR (R168): the response is start and count. -/
def execWmr (unit : Byte) (start : Word) (values : List Word) (s : State) : Host.Outcome State Fault Refusal :=
  match s.cfg.role with
  | .responder =>
    .next (s.serve unit
      (State.serveWrite fnWriteMultiple start values (twoWords start (BitVec.ofNat 16 values.length))))
  | .requester => .next (s.settle none)

end Sys2Proof.Machine
end

