-- ==== Sys2Proof/Machine/Responses.lean ====
section
/-! DEFINITION. The response frames RHR.R, WSR.R, WMR.R, EXC (45_requester.md R189 to R191). A Requester classifies them;
a Responder takes each for a request (R62; DEDUCED, log 21). -/

namespace Sys2Proof.Machine

/-- `classify` on a function-0x03 frame that carries the words `words` (R189, R190): the unit and the function match and
there are as many words as registers asked for. -/
def classifyData (unit : Byte) (words : List Word) (f : Inflight) : Option (Except CoreError (List Word)) :=
  if unit = f.unit ∧ f.fn = fnRead ∧ words.length = f.count.toNat then some (.ok words) else none

/-- `classify` on an exception frame (R189, R191): the unit matches and the function is the request's with bit 7 set. -/
def classifyException (unit : Byte) (fn : BitVec 7) (code : Byte) (f : Inflight) :
    Option (Except CoreError (List Word)) :=
  if unit = f.unit ∧ exceptionFn fn = f.fn ||| 0x80 then some (.error (excName code)) else none

/-- RHR.R (R190). At a Responder its payload, an odd number of bytes, is not a read request's four (R171). -/
def execRhrR (unit : Byte) (words : List Word) (s : State) : Host.Outcome State Fault Refusal :=
  match s.cfg.role with
  | .responder => .next (s.serve unit (State.respondException unit fnRead codeIllegalDataValue))
  | .requester => .next (s.settle (classifyData unit words s.inflight))

/-- WSR.R: a Requester, which never sends 0x06, discards it (R73, R189). Its bytes are those of WSR, and a Responder
executes them as WSR (R62, R167). -/
def execWsrR (unit : Byte) (addr value : Word) (s : State) : Host.Outcome State Fault Refusal :=
  match s.cfg.role with
  | .responder => .next (s.serve unit (State.serveWrite fnWriteSingle addr [value] (twoWords addr value)))
  | .requester => .next (s.settle none)

/-- WMR.R: a Requester, which never sends 0x10, discards it (R73, R189). At a Responder its four payload bytes are fewer
than the five of a write request (R168, R171), whatever they hold. -/
def execWmrR (unit : Byte) (_start _count : Word) (s : State) : Host.Outcome State Fault Refusal :=
  match s.cfg.role with
  | .responder => .next (s.serve unit (State.respondException unit fnWriteMultiple codeIllegalDataValue))
  | .requester => .next (s.settle none)

/-- EXC (R191): a matching exception ends the exchange with the mapped error. A Responder drops it (R169). -/
def execExc (unit : Byte) (fn : BitVec 7) (code : Byte) (s : State) : Host.Outcome State Fault Refusal :=
  match s.cfg.role with
  | .responder => .next (s.serve unit (fun s => s))
  | .requester => .next (s.settle (classifyException unit fn code s.inflight))

end Sys2Proof.Machine
end

