-- ==== Sys2Proof/Machine/Dispatch.lean ====
section
/-! DEFINITION. exec: one arm per row of the opcode table. -/

namespace Sys2Proof.Machine

-- The wire frames (30_encoding.md R70), then the host commands in OPSEL order (R80).
def exec (i : Instr) (s : State) : Host.Outcome State Fault Refusal :=
  match i with
  | .rhr unit start count => Sys2Proof.Machine.execRhr unit start count s
  | .rhrR unit words => Sys2Proof.Machine.execRhrR unit words s
  | .wsr unit addr value => Sys2Proof.Machine.execWsr unit addr value s
  | .wsrR unit addr value => Sys2Proof.Machine.execWsrR unit addr value s
  | .wmr unit start values => Sys2Proof.Machine.execWmr unit start values s
  | .wmrR unit start count => Sys2Proof.Machine.execWmrR unit start count s
  | .exc unit fn code => Sys2Proof.Machine.execExc unit fn code s
  | .crcInit => Sys2Proof.Machine.execCrcInit s
  | .crcUpd b => Sys2Proof.Machine.execCrcUpd b s
  | .crcRead => Sys2Proof.Machine.execCrcRead s
  | .frmEnc unit fn payload => Sys2Proof.Machine.execFrmEnc unit fn payload s
  | .frmDec raw => Sys2Proof.Machine.execFrmDec raw s
  | .rsRead start count => Sys2Proof.Machine.execRsRead start count s
  | .rsWrite start values => Sys2Proof.Machine.execRsWrite start values s
  | .encMeas value d => Sys2Proof.Machine.execEncMeas value d s
  | .decMeas words d => Sys2Proof.Machine.execDecMeas words d s
  | .encScaled value scale signed => Sys2Proof.Machine.execEncScaled value scale signed s
  | .decScaled word scale signed => Sys2Proof.Machine.execDecScaled word scale signed s
  | .encF32 value byteOrder wordOrder => Sys2Proof.Machine.execEncF32 value byteOrder wordOrder s
  | .decF32 reg0 reg1 byteOrder wordOrder => Sys2Proof.Machine.execDecF32 reg0 reg1 byteOrder wordOrder s
  | .rqSendRead unit start count timeout => Sys2Proof.Machine.execRqSendRead unit start count timeout s
  | .rqCancel => Sys2Proof.Machine.execRqCancel s
  | .rqReadMeas unit addr d timeout => Sys2Proof.Machine.execRqReadMeas unit addr d timeout s

end Sys2Proof.Machine
end

