-- ==== Sys2Proof/Machine/Fetch.lean ====
section
/-! DEFINITION. What the next step has to do. The block fetches from no memory (10_state.md R13): an instruction comes
from a window that Gap35 closes and the framer validates, or from a command on the host port. -/

namespace Sys2Proof.Machine

/-- What a step finds to do: run an instruction, nothing beyond the state given, or a refusal. -/
inductive Work where
  | run (i : Instr) (s : State)
  | done (s : State)
  | refuse (r : Refusal)
deriving DecidableEq, Repr

namespace State

/-- Gap35 at a Responder, up to the dispatch (R163). -/
def responderGap35 (s : State) : Work :=
  match s.rxOutcome with
  | .noWindow => .done s.rxClear
  | .dropped _ => .done { s.rxClear with rstate := .idle }
  | .frame f =>
    match decodeRequest f with
    | .ok i => .run i s.rxClear
    | .error e => .done (s.rxClear.rejectRequest e)

/-- Gap35 at a Requester, up to the classification (R188, R189). -/
def requesterGap35 (s : State) : Work :=
  match s.qstate with
  | .idle => .done s
  | .awaitingResponse =>
    match s.rxOutcome with
    | .noWindow => .done s.rxClear
    | .dropped _ => .done s.rxClear.discardWindow
    | .frame f =>
      match decodeResponse f with
      | .ok i => .run i s.rxClear
      | .error _ => .done s.rxClear.discardWindow

/-- A reset with the static inputs `cfg` and the seed `seed` (R240): an illegal configuration is refused (U3, R17; log 15). What
the block was receiving or awaiting is abandoned without a result, and the timer of an exchange is disarmed (R241). -/
def onReset (cfg : Config) (seed : Memory) (s : State) : Work :=
  if cfg.legal && seededBy cfg seed then
    .done (resetWith cfg seed s.inputs
      (if s.cfg.role = .requester ∧ s.qstate = .awaitingResponse then s.outputs ++ [.disarmTimer] else s.outputs))
  else .refuse .illegalConfiguration

/-- One input (R161, R186, R80). `TimeoutExpire` does not exist in a Responder (R174; log 6). A command the decoder
rejects is a reserved OPSEL: answered Refused, no state changed (R81, U4). -/
def accept (e : Input) (s : State) : Work :=
  match e with
  | .rxByte b => .done (s.onRxByte b)
  | .gap15 => .done s.onGap15
  | .gap35 =>
    match s.cfg.role with
    | .responder => s.responderGap35
    | .requester => s.requesterGap35
  | .timeoutExpire =>
    match s.cfg.role with
    | .responder => .done s
    | .requester => .done s.onTimeout
  | .command p =>
    match decodeCommand p with
    | .ok i => .run i s
    | .error _ => .done (s.deliver (.error .refused))
  | .reset cfg seed => s.onReset cfg seed

/-- The oldest input is taken; with none presented the block waits (R221; log 2). -/
def fetch (s : State) : Work :=
  match s.inputs with
  | [] => .done s
  | e :: rest => ({ s with inputs := rest } : State).accept e

/-- The state in which what arrives as `e` is what the next step runs: a frame's bytes are in the receive buffer, of a
Responder in FrameReceiving or a Requester in AwaitingResponse, with the Gap35 that closes the window presented next; a
command is presented next. -/
def presenting (e : Encoded) (s : State) : State :=
  match e with
  | .command p => { s with inputs := .command p :: s.inputs }
  | .frame bytes =>
    { bytes.foldl (fun s b => s.rxPush b) s.rxClear with
        rstate := if s.cfg.role = .responder then .frameReceiving else s.rstate,
        qstate := if s.cfg.role = .requester then .awaitingResponse else s.qstate,
        inputs := .gap35 :: s.inputs }

end State

end Sys2Proof.Machine
end

