-- ==== Sys2Proof/Machine/Step.lean ====
section
/-! DEFINITION. One step of the block: one input taken, and the instruction it completes, if any, executed (R13, R48). -/

namespace Sys2Proof.Machine

/-- One step. -/
def step (s : State) : Host.Outcome State Fault Refusal :=
  match s.fetch with
  | .run i t => exec i t
  | .done t => .next t
  | .refuse r => .refused r

/-- The state in which the next step runs the instruction of a table word (log 9). -/
def State.withFetchWord (s : State) (nbits w : Nat) : State :=
  s.presenting (tableEncoded nbits w)

end Sys2Proof.Machine
end

