-- ==== Sys2Proof/Safety.lean ====
section
/-! DEFINITION. What a good state is, and the vocabulary claims are written in: the value of a float pattern, correct
rounding, the spec's window form of the receive path, and its pseudocode of a responder's dispatch and a requester's
classification, written on raw payload bytes as the spec writes them. -/

namespace Sys2Proof.Machine

/-! ### The invariant -/

/-- The receive path of an instance (R13, R23, R108): at most 256 bytes, an overflow only of a full buffer, a gap only
inside a frame. -/
structure State.RxInv (s : State) : Prop where
  length_le : s.rxlen ≤ frameMax
  ovf_full  : s.rxovf = true → s.rxlen = frameMax
  gap_some  : s.gaperr = true → 0 < s.rxlen

/-- A Responder between steps (R14, R161): `FrameValidated` and `Dispatched` are never seen, and it is receiving exactly
when a byte is in the buffer; the requester's fields are inert. -/
structure State.ResponderInv (s : State) : Prop where
  rstate_ok    : (s.rstate = .idle ∧ s.rxlen = 0) ∨ (s.rstate = .frameReceiving ∧ 0 < s.rxlen)
  qstate_inert : s.qstate = .idle
  no_expiry    : s.expired = false
  no_pending   : s.pendingMeas = none

/-- A Requester between steps (R24, R186, R187, R188): in Idle nothing is received and nothing is pending; in
AwaitingResponse the record is of a read of a legal unit, and of as many registers as a pending measurement spans. -/
structure State.RequesterInv (s : State) : Prop where
  rstate_inert : s.rstate = .idle
  idle_clear   : s.qstate = .idle → s.rxlen = 0 ∧ s.expired = false ∧ s.pendingMeas = none
  read_inflight : s.qstate = .awaitingResponse →
    s.inflight.fn = fnRead ∧ unitLegal s.inflight.unit = true ∧
      ∀ d, s.pendingMeas = some d → descriptorLegal d = true ∧ s.inflight.count = BitVec.ofNat 16 (spanRegs d.span)

/-- The invariant every step keeps: a legal configuration (R17), a register file with a word for exactly the addresses
of MAPPED in canonical form (R12, R22), and the role's bookkeeping. -/
structure State.Inv (s : State) : Prop where
  legal     : s.cfg.legal = true
  seeded    : seededBy s.cfg s.hr = true
  rx        : s.RxInv
  responder : s.cfg.role = .responder → s.ResponderInv
  requester : s.cfg.role = .requester → s.RequesterInv

/-! ### Values of float patterns (R146) -/

/-- The rational value of a finite pattern. -/
def floatValue (fmt : FloatFormat) (pattern : Nat) : ℚ :=
  (if floatSign fmt pattern then -1 else 1) * ((floatUnits fmt pattern : ℚ) / (unitsPerOne fmt : ℚ))

/-- A pattern of the format's width that is finite. -/
def isFinitePattern (fmt : FloatFormat) (pattern : Nat) : Prop :=
  pattern < 2 ^ (fmt.fracBits + fmt.expBits + 1) ∧ isNonfinite fmt pattern = false

/-- The least magnitude that rounds to infinity: half a unit in the last place above the largest finite value; `2^128 −
2^103` in binary32 (R145). -/
def overflowBound (fmt : FloatFormat) : ℚ :=
  (2 : ℚ) ^ (2 ^ (fmt.expBits - 1)) - (2 : ℚ) ^ (2 ^ (fmt.expBits - 1) - 1 - fmt.fracBits - 1)

/-- `p` is `x` rounded to nearest, ties to even (R137, R140, R145): an infinity of `x`'s sign at or beyond the overflow
bound, else a finite pattern that no other finite pattern is nearer than, and at a tie with another value the even one. -/
def CorrectlyRounded (fmt : FloatFormat) (x : ℚ) (p : Nat) : Prop :=
  if overflowBound fmt ≤ |x| then p = signedPattern fmt (x < 0) (infinityPattern fmt)
  else
    isFinitePattern fmt p ∧
    ∀ q, isFinitePattern fmt q →
      |x - floatValue fmt p| ≤ |x - floatValue fmt q| ∧
      (|x - floatValue fmt p| = |x - floatValue fmt q| → floatValue fmt q = floatValue fmt p ∨ p % 2 = 0)

/-! ### Receiving (R106 to R110) -/

/-- The receive path's part of a byte (`some b`) or of a 1.5 gap (`none`). -/
def State.receive (s : State) (events : List (Option Byte)) : State :=
  events.foldl (fun s e => match e with | some b => s.rxPush b | none => s.rxGap15) s

/-- Whether a 1.5 gap occurred inside the window: after its first byte. -/
def gapInside : List (Option Byte) → Bool
  | [] => false
  | none :: rest => gapInside rest
  | some _ :: rest => rest.any Option.isNone

/-- The outcome of a window in the source's window form (R110): the bytes received and whether a gap occurred inside. -/
def windowOutcome (bytes : List Byte) (gap : Bool) : Window :=
  if gap then .dropped .frameTimeout
  else if frameMax < bytes.length then .dropped .frameTooLong
  else match frameDecode bytes with
    | .ok f => .frame f
    | .error e => .dropped e

/-! ### The spec's pseudocode, on raw payloads -/

/-- Byte `i` of a payload. -/
def byteAt (p : List Byte) (i : Nat) : Byte := p.getD i 0

/-- `mk16(p[i], p[i+1])`. -/
def wordAt (p : List Byte) (i : Nat) : Word := mk16 (byteAt p i) (byteAt p (i + 1))

/-- A frame to emit, not yet encoded. -/
abbrev Reply := Byte × Byte × List Byte

/-- `exception(f, code)` (R170). -/
def replyException (f : Frame) (code : Byte) : Reply := (f.unit, f.fn ||| 0x80, [code])

/-- `dispatch(f)` of R165 with `exec_read`, `exec_write_single` and `exec_write_multiple` of R166 to R168: the register
file afterwards, and the frame to emit if any. -/
def dispatchPseudocode (c : Config) (hr : Memory) (f : Frame) : Memory × Option Reply :=
  let p := f.payload
  if 0x80 ≤ f.fn.toNat then (hr, none)
  else if f.fn = 0x03 then
    if p.length ≠ 4 then (hr, some (replyException f 0x03))
    else
      let start := (wordAt p 0).toNat
      let count := (wordAt p 2).toNat
      if ¬ validRange c start count then (hr, some (replyException f 0x02))
      else
        let words := (List.range count).map (fun i => (hr.read (start + i)).getD 0)
        (hr, some (c.unit, 0x03, BitVec.ofNat 8 (2 * count) :: words.flatMap (fun w => [hi8 w, lo8 w])))
  else if f.fn = 0x06 then
    if p.length ≠ 4 then (hr, some (replyException f 0x03))
    else
      let addr := (wordAt p 0).toNat
      if ¬ validRange c addr 1 then (hr, some (replyException f 0x02))
      else (hr.write addr (wordAt p 2), some (c.unit, 0x06, p))
  else if f.fn = 0x10 then
    if p.length < 5 then (hr, some (replyException f 0x03))
    else
      let start := (wordAt p 0).toNat
      let count := (wordAt p 2).toNat
      let byteCount := (byteAt p 4).toNat
      if p.length ≠ 5 + byteCount ∨ byteCount ≠ 2 * count then (hr, some (replyException f 0x03))
      else if ¬ validRange c start count then (hr, some (replyException f 0x02))
      else
        let values := (List.range count).map (fun i => wordAt p (5 + 2 * i))
        (hr.writeMany start values, some (c.unit, 0x10, p.take 4))
  else (hr, some (replyException f 0x01))

/-- `classify(f)` of R189: `none` is Discard. -/
def classifyPseudocode (inflight : Inflight) (f : Frame) : Option (Except CoreError (List Word)) :=
  let p := f.payload
  if f.unit ≠ inflight.unit then none
  else if f.fn = inflight.fn ||| 0x80 then
    if p.length ≠ 1 then none else some (.error (excName (byteAt p 0)))
  else if f.fn = inflight.fn then
    if 1 ≤ p.length ∧ (byteAt p 0).toNat = p.length - 1 ∧ p.length - 1 = 2 * inflight.count.toNat then
      some (.ok ((List.range inflight.count.toNat).map (fun i => wordAt p (1 + 2 * i))))
    else none
  else none

/-! ### Runs, and changes of one field -/

/-- An outcome with its next state changed. -/
def mapNext (k : State → State) : Host.Outcome State Fault Refusal → Host.Outcome State Fault Refusal
  | .next t => .next (k t)
  | .fault r => .fault r
  | .refused r => .refused r

/-- The CRC command of an input that writes `crc_acc`, if it is one: CRC.INIT or CRC.UPD (R94, R95). -/
def crcWrite : Input → Option Instr
  | .command p =>
    match decodeCommand p with
    | .ok .crcInit => some .crcInit
    | .ok (.crcUpd b) => some (.crcUpd b)
    | _ => none
  | _ => none

/-- Whether an input is one of the three CRC commands (R94 to R96). -/
def isCrcCommand : Input → Bool
  | .command p => p.opsel = 0x01 || p.opsel = 0x02 || p.opsel = 0x03
  | _ => false

/-- Whether an input is a reset. -/
def isReset : Input → Bool
  | .reset _ _ => true
  | _ => false

/-- A byte sequence with bit `j` of byte `k` changed. -/
def flipBit (bytes : List Byte) (k j : Nat) : List Byte :=
  bytes.set k (bytes.getD k 0 ^^^ ((1 : Byte) <<< j))

/-- The unit address of a wire frame; none for a host command. -/
def frameUnit : Instr → Option Byte
  | .rhr u _ _ | .rhrR u _ | .wsr u _ _ | .wsrR u _ _ | .wmr u _ _ | .wmrR u _ _ | .exc u _ _ => some u
  | .crcInit | .crcUpd _ | .crcRead | .frmEnc _ _ _ | .frmDec _ | .rsRead _ _ | .rsWrite _ _ => none
  | .encMeas _ _ | .decMeas _ _ | .encScaled _ _ _ | .decScaled _ _ _ | .encF32 _ _ _ | .decF32 _ _ _ _ => none
  | .rqSendRead _ _ _ _ | .rqCancel | .rqReadMeas _ _ _ _ => none

/-- The registers an instruction may store to: the first address and how many (R124, R167, R168). -/
def storeRange : Instr → Option (Nat × Nat)
  | .wsr _ addr _ | .wsrR _ addr _ => some (addr.toNat, 1)
  | .wmr _ start values | .rsWrite start values => some (start.toNat, values.length)
  | .rhr _ _ _ | .rhrR _ _ | .wmrR _ _ _ | .exc _ _ _ => none
  | .crcInit | .crcUpd _ | .crcRead | .frmEnc _ _ _ | .frmDec _ | .rsRead _ _ => none
  | .encMeas _ _ | .decMeas _ _ | .encScaled _ _ _ | .decScaled _ _ _ | .encF32 _ _ _ | .decF32 _ _ _ _ => none
  | .rqSendRead _ _ _ _ | .rqCancel | .rqReadMeas _ _ _ _ => none

/-! ### What a step put out -/

/-- The outputs a step appended to those before it. -/
def newOutputs (s t : State) : List Output := t.outputs.drop s.outputs.length

/-- The frames among some outputs, in order. -/
def emitted (os : List Output) : List (List Byte) :=
  os.filterMap (fun o => match o with | .emit bytes => some bytes | _ => none)

/-- The results of pending commands among some outputs, in order. -/
def completions (os : List Output) : List (Except CoreError HostValue) :=
  os.filterMap (fun o => match o with | .completion r => some r | _ => none)

/-- The results of host commands among some outputs, in order. -/
def results (os : List Output) : List (Except CoreError HostValue) :=
  os.filterMap (fun o => match o with | .result r => some r | _ => none)

end Sys2Proof.Machine
end

