-- ==== Sys2Proof/Certificates/Slice0/Obligations.lean ====
section
/-! DEFINITION. The statements for the provers. Each docstring names the rule of spec/ it formalises. -/

open Sys2Proof Sys2Proof.Machine

/-! ### The CRC generator (40_crc.md) -/

/-- R92: `crc_step` is linear over exclusive-or, and equals the table form with `T[i] = crc_step(0, i)`. -/
def Obligations.CrcStepIsLinearAndTabular : Prop :=
  (∀ x y : Word, crcStep (x ^^^ y) 0 = crcStep x 0 ^^^ crcStep y 0) ∧
  (∀ (acc : Word) (b : Byte), crcStep acc b = crcStep (acc ^^^ b.setWidth 16) 0) ∧
  (∀ (acc : Word) (b : Byte), crcStep acc b = (acc >>> 8) ^^^ crcStep 0 ((acc ^^^ b.setWidth 16).setWidth 8))

/-- R97: the CRC of a sequence with its CRC appended low byte first is zero, the two ways of validating accept the same
frames, and appending high byte first does not give zero in general. -/
def Obligations.AppendedCrcLeavesZeroResidue : Prop :=
  (∀ s : List Byte, crc16 (s ++ [lo8 (crc16 s), hi8 (crc16 s)]) = 0) ∧
  (∀ (s : List Byte) (lo hi : Byte), (lo = lo8 (crc16 s) ∧ hi = hi8 (crc16 s)) ↔ crc16 (s ++ [lo, hi]) = 0) ∧
  (∃ s : List Byte, crc16 (s ++ [hi8 (crc16 s), lo8 (crc16 s)]) ≠ 0)

/-- R98: any change of a single bit of a sequence with its CRC makes the residue check fail; of a frame, it makes
`decode` fail CrcMismatch, whichever byte it is in. -/
def Obligations.SingleBitChangesAreDetected : Prop :=
  (∀ (s : List Byte) (k j : Nat), k < (withCrc s).length → j < 8 → crc16 (flipBit (withCrc s) k j) ≠ 0) ∧
  (∀ (unit fn : Byte) (payload : List Byte) (k j : Nat), payload.length ≤ 252 →
    k < (serialize unit fn payload).length → j < 8 →
    frameDecode (flipBit (serialize unit fn payload) k j) = .error .crcMismatch)

/-- R94, R95, R96: each CRC command by its OPSEL, its effect on `crc_acc`, its result, and everything else unchanged;
with the examples of the three rules. (The acknowledgement of a command without a result is the model's `done`, log 11.) -/
def Obligations.CrcCommandResults : Prop :=
  (∀ s : State, exec .crcInit s =
    .next { s with crcAcc := 0xFFFF, outputs := s.outputs ++ [.result (.ok .done)] }) ∧
  (∀ (b : Byte) (s : State), exec (.crcUpd b) s =
    .next { s with crcAcc := crcStep s.crcAcc b, outputs := s.outputs ++ [.result (.ok .done)] }) ∧
  (∀ s : State, exec .crcRead s = .next { s with outputs := s.outputs ++ [.result (.ok (.word s.crcAcc))] }) ∧
  (∀ b : Byte, decodeCommand { opsel := 0x01 } = .ok .crcInit ∧
    decodeCommand { opsel := 0x02, b := b } = .ok (.crcUpd b) ∧ decodeCommand { opsel := 0x03 } = .ok .crcRead) ∧
  State.reset.crcAcc = 0xFFFF ∧ crcStep 0xFFFF 0x01 = 0x807E ∧
  crc16 [0x31, 0x32, 0x33, 0x34, 0x35, 0x36, 0x37, 0x38, 0x39] = 0x4B37

/-- R99: over any inputs without a reset among which the commands that write `crc_acc` are CRC.INIT and then CRC.UPD of
`bytes` in order, whatever other commands and wire activity fall between, the run completes, `crc_acc` is `crc16` of the
bytes, and CRC.READ returns it. -/
def Obligations.CrcCommandsComputeCrc16 : Prop :=
  ∀ (s : State) (inputs rest : List Input) (bytes : List Byte), s.inputs = inputs ++ rest →
    inputs.all (fun e => !isReset e) = true → inputs.filterMap crcWrite = .crcInit :: bytes.map .crcUpd →
    ∃ t : State, core.run inputs.length s = .next t ∧ t.crcAcc = crc16 bytes ∧
      exec .crcRead t = .next { t with outputs := t.outputs ++ [.result (.ok (.word (crc16 bytes)))] }

/-- R20, R102: no step but one that takes a CRC command or a reset reads or writes `crc_acc`: with another value in it
the same step does the same and leaves that value. -/
def Obligations.CrcAccIsTouchedOnlyByItsCommands : Prop :=
  ∀ (s : State) (x : Word),
    (∀ e rest, s.inputs = e :: rest → isCrcCommand e = false ∧ isReset e = false) →
    step { s with crcAcc := x } = mapNext (fun t => { t with crcAcc := x }) (step s)

/-! ### The framer (41_framer.md) -/

/-- R100: FRM.ENC by its OPSEL; body and CRC low byte first for at most 252 payload bytes, PayloadTooLarge above; no
other state written; the shortest, the longest and the example frame. -/
def Obligations.FrmEncResult : Prop :=
  (∀ (unit fn : Byte) (payload : List Byte) (s : State), payload.length ≤ 252 →
    exec (.frmEnc unit fn payload) s = .next { s with
      outputs := s.outputs ++ [.result (.ok (.bytes (unit :: fn :: payload ++
        [lo8 (crc16 (unit :: fn :: payload)), hi8 (crc16 (unit :: fn :: payload))])))] }) ∧
  (∀ (unit fn : Byte) (payload : List Byte) (s : State), 253 ≤ payload.length →
    exec (.frmEnc unit fn payload) s =
      .next { s with outputs := s.outputs ++ [.result (.error .payloadTooLarge)] }) ∧
  (∀ (unit fn : Byte) (payload : List Byte),
    decodeCommand { opsel := 0x04, unit := unit, fn := fn, payload := payload } = .ok (.frmEnc unit fn payload)) ∧
  (∀ unit fn : Byte, (serialize unit fn []).length = 4 ∧ (serialize unit fn (List.replicate 252 0)).length = 256) ∧
  frameEncode 1 0x03 [0x00, 0x00, 0x00, 0x01] = .ok [0x01, 0x03, 0x00, 0x00, 0x00, 0x01, 0x84, 0x0A]

/-- R103: FRM.DEC by its OPSEL; the three errors in their order, else the frame; no state written; the rule's examples. -/
def Obligations.FrmDecResult : Prop :=
  (∀ (raw : List Byte) (s : State), raw.length < 4 →
    exec (.frmDec raw) s = .next { s with outputs := s.outputs ++ [.result (.error .frameTooShort)] }) ∧
  (∀ (raw : List Byte) (s : State), 256 < raw.length →
    exec (.frmDec raw) s = .next { s with outputs := s.outputs ++ [.result (.error .frameTooLong)] }) ∧
  (∀ (body : List Byte) (lo hi : Byte) (s : State), 2 ≤ body.length → body.length ≤ 254 →
    ¬(lo = lo8 (crc16 body) ∧ hi = hi8 (crc16 body)) →
    exec (.frmDec (body ++ [lo, hi])) s = .next { s with outputs := s.outputs ++ [.result (.error .crcMismatch)] }) ∧
  (∀ (unit fn : Byte) (payload : List Byte) (s : State), payload.length ≤ 252 →
    frameDecode (serialize unit fn payload) =
      .ok { unit := unit, fn := fn, payload := payload, crc := crc16 (unit :: fn :: payload) } ∧
    exec (.frmDec (serialize unit fn payload)) s =
      .next { s with outputs := s.outputs ++ [.result (.ok (.frame unit fn payload))] }) ∧
  (∀ raw : List Byte, decodeCommand { opsel := 0x05, raw := raw } = .ok (.frmDec raw)) ∧
  frameDecode [0x01, 0x03, 0x00, 0x00, 0x00, 0x01, 0x84, 0x0A] =
    .ok { unit := 1, fn := 0x03, payload := [0x00, 0x00, 0x00, 0x01], crc := 0x0A84 } ∧
  frameDecode [0x01, 0x03, 0x00, 0x01, 0x00, 0x01, 0x84, 0x0A] = .error .crcMismatch

/-- R105: `decode` inverts `encode`, and `encode` of the fields of a decoded frame gives its bytes again. -/
def Obligations.FrameEncodeDecodeInverse : Prop :=
  (∀ (unit fn : Byte) (payload : List Byte), payload.length ≤ 252 →
    ∃ (bytes : List Byte) (f : Frame), frameEncode unit fn payload = .ok bytes ∧ frameDecode bytes = .ok f ∧
      f.unit = unit ∧ f.fn = fn ∧ f.payload = payload) ∧
  (∀ (raw : List Byte) (f : Frame), frameDecode raw = .ok f → frameEncode f.unit f.fn f.payload = .ok raw)

/-- R110: from a clear receive path, the outcome of any bytes and 1.5 gaps that hold at least one byte is that of the
window form, the bytes and whether a gap fell inside them. -/
def Obligations.EventsAgreeWithWindowForm : Prop :=
  ∀ (s : State) (events : List (Option Byte)), s.rxlen = 0 → s.gaperr = false → s.rxovf = false →
    events.filterMap id ≠ [] →
    (s.receive events).rxOutcome = windowOutcome (events.filterMap id) (gapInside events)

/-- R107, R108, R162, R188: a step that takes RxByte or Gap15 at a Responder, or at a Requester in AwaitingResponse. A
byte is ignored after a gap, sets `rxovf` when 256 are stored, and is else the last byte of the window; at a Responder in
Idle it starts a frame. Gap15 sets `gaperr` when a byte has been received. Nothing else changes. -/
def Obligations.ReceiveEventsAreStored : Prop :=
  ∀ (s : State) (rest : List Input), s.cfg.role = .responder ∨ s.qstate = .awaitingResponse → s.rxlen ≤ 256 →
    (∀ b : Byte, s.inputs = .rxByte b :: rest →
      let r := if s.cfg.role = .responder ∧ s.rstate = .idle then .frameReceiving else s.rstate
      (s.gaperr = true → step s = .next { s with inputs := rest, rstate := r }) ∧
      (s.gaperr = false → s.rxlen = 256 → step s = .next { s with inputs := rest, rstate := r, rxovf := true }) ∧
      (s.gaperr = false → s.rxlen < 256 → ∃ buf : Vector Byte 256,
        step s = .next { s with inputs := rest, rstate := r, rxbuf := buf, rxlen := s.rxlen + 1 } ∧
        buf.toList.take (s.rxlen + 1) = s.window ++ [b])) ∧
    (s.inputs = .gap15 :: rest →
      (0 < s.rxlen → step s = .next { s with inputs := rest, gaperr := true }) ∧
      (s.rxlen = 0 → step s = .next { s with inputs := rest }))

/-! ### Encoding (30_encoding.md) -/

/-- R62 to R69, R77, R80: every well-formed instruction is read back from its encoding by the decoder of a role that
reads it, every operand at every value the encoding admits. -/
def Obligations.DecodeReadsBackEveryEncoding : Prop :=
  ∀ (role : Role) (i : Instr), WellFormed i = true → readBy role i = true → decode role (encode i) = .ok i

/-- R60 to R69: a frame that decodes is the encoding of the instruction it decodes to, which is well-formed and of the
role's direction: no two frames are one instruction, and no byte of a frame is dropped. -/
def Obligations.EveryDecodedFrameIsAnEncoding : Prop :=
  ∀ (role : Role) (raw : List Byte) (i : Instr), decode role (.frame raw) = .ok i →
    encode i = .frame raw ∧ WellFormed i = true ∧ readBy role i = true

/-- Words written out from R63 to R67, R77 and the OPSEL table of R80 decode to the instructions they stand for. -/
def Obligations.WrittenOutWordsDecode : Prop :=
  decode .responder (.frame [0x01, 0x03, 0x00, 0x0A, 0x00, 0x01, 0xA4, 0x08]) = .ok (.rhr 1 10 1) ∧
  decode .responder (.frame [0x01, 0x06, 0x00, 0x01, 0xAB, 0xCD, 0x66, 0xAF]) = .ok (.wsr 1 1 0xABCD) ∧
  decode .responder (.frame [0x01, 0x10, 0x00, 0x02, 0x00, 0x02, 0x04, 0x11, 0x22, 0x33, 0x44, 0xC3, 0x83]) =
    .ok (.wmr 1 2 [0x1122, 0x3344]) ∧
  decode .requester (.frame [0x01, 0x03, 0x02, 0x08, 0x98, 0xBE, 0x2E]) = .ok (.rhrR 1 [0x0898]) ∧
  decode .requester (.frame [0x01, 0x83, 0x02, 0xC0, 0xF1]) = .ok (.exc 1 0x03 0x02) ∧
  decode .requester (.command { opsel := 0x10, unit := 1, start := 10, count := 2, timeout := 1000 }) =
    .ok (.rqSendRead 1 10 2 1000)

/-- R81 with U4, U5 and U7 of 93_implementation_defined.md: a reserved OPSEL, a command of the other role, scale 0, a
number of words that is not the span's, and in Idle a read from a unit outside 1..247 or with an illegal descriptor, are
answered Refused, the answer U4 gives a total model (log 10), and change no other state. -/
def Obligations.ReservedCommandsAreRefused : Prop :=
  (∀ (s : State) (p : HostPort) (rest : List Input), s.inputs = .command p :: rest →
    (p.opsel = 0x00 ∨ p.opsel = 0x06 ∨ p.opsel = 0x07 ∨ 0x13 ≤ p.opsel.toNat) →
    step s = .next { s with inputs := rest, outputs := s.outputs ++ [.result (.error .refused)] }) ∧
  (∀ (s : State) (i : Instr),
    (s.cfg.role = .requester ∧ ∃ start count values, i = .rsRead start count ∨ i = .rsWrite start values) ∨
    (s.cfg.role = .responder ∧ ∃ unit start count timeout d,
      i = .rqSendRead unit start count timeout ∨ i = .rqCancel ∨ i = .rqReadMeas unit start d timeout) ∨
    (∃ value word signed, i = .encScaled value 0 signed ∨ i = .decScaled word 0 signed) ∨
    (∃ value words d, d.span = .one ∧ d.scale = 0 ∧ (i = .encMeas value d ∨ i = .decMeas words d)) ∨
    (∃ words d, words.length ≠ (if d.span = .one then 1 else 2) ∧ i = .decMeas words d) ∨
    (s.cfg.role = .requester ∧ s.qstate = .idle ∧ ∃ unit start count timeout d, (unit = 0 ∨ 248 ≤ unit.toNat) ∧
      (i = .rqSendRead unit start count timeout ∨ i = .rqReadMeas unit start d timeout)) ∨
    (s.cfg.role = .requester ∧ s.qstate = .idle ∧ ∃ unit start timeout d, d.span = .one ∧ d.scale = 0 ∧
      i = .rqReadMeas unit start d timeout) →
    exec i s = .next { s with outputs := s.outputs ++ [.result (.error .refused)] })

/-! ### Steps -/

/-- R13, R80, R163, R189: when a command on the host port decodes to an instruction, or a window that a Gap35 closes is
the frame of one, the step is `exec` of that instruction; what the step adds is that the input is consumed and, for a
frame, that the receive buffer is cleared first. -/
def Obligations.StepRunsTheDecodedInstruction : Prop :=
  (∀ (s : State) (p : HostPort) (rest : List Input) (i : Instr), s.inputs = .command p :: rest →
    decode s.cfg.role (.command p) = .ok i → step s = exec i { s with inputs := rest }) ∧
  (∀ (s : State) (rest : List Input) (i : Instr), s.inputs = .gap35 :: rest →
    s.cfg.role = .responder ∨ s.qstate = .awaitingResponse →
    s.rxlen ≠ 0 → s.gaperr = false → s.rxovf = false → decode s.cfg.role (.frame s.window) = .ok i →
    step s = exec i { s with inputs := rest, rxlen := 0, rxovf := false, gaperr := false })

/-- R217, R216: every step takes its input and answers a next state, except a reset with an illegal configuration or
seed (U3; that a reset arrives as an input is the model's, log 15); every instruction answers a next state in every state. -/
def Obligations.EveryInputIsTaken : Prop :=
  (∀ (i : Instr) (s : State), ∃ t, exec i s = .next t) ∧
  (∀ s : State, (∃ t, step s = .next t ∧ (∀ e rest, s.inputs = e :: rest → t.inputs = rest)) ∨
    (∃ cfg seed rest, s.inputs = .reset cfg seed :: rest ∧ (cfg.legal && seededBy cfg seed) = false ∧
      step s = .refused .illegalConfiguration))

/-- The invariant of the model (Safety.lean, `State.Inv`: R6, R12, R13, R14, R17, R22, R24) is kept by every step from
every state that has it. -/
def Obligations.EveryStepKeepsTheInvariant : Prop :=
  ∀ s t : State, s.Inv → step s = .next t → t.Inv

/-- The invariant holds after reset, with the model's own straps (log 3) and with every legal configuration and seed. -/
def Obligations.ResetMeetsTheInvariant : Prop :=
  State.reset.Inv ∧
  ∀ (cfg : Config) (seed : Memory) (inputs : List Input) (outputs : List Output),
    cfg.legal = true → seededBy cfg seed = true → (State.resetWith cfg seed inputs outputs).Inv

/-- R29, R240, R241: a step that takes a reset with a legal configuration and a seed for MAPPED leaves the values of
R29's table, whatever the block was doing, and disarms the timer of an exchange it abandons. -/
def Obligations.ResetGivesTheTableOfValues : Prop :=
  ∀ (s : State) (cfg : Config) (seed : Memory) (rest : List Input), s.inputs = .reset cfg seed :: rest →
    cfg.legal = true → seededBy cfg seed = true →
    ∃ t, step s = .next t ∧ t.cfg = cfg ∧ (∀ a, t.hr.read a = seed.read a) ∧
      (cfg.role = .responder → ∀ a, (t.hr.read a).isSome = mapped cfg a) ∧
      t.rstate = .idle ∧ t.qstate = .idle ∧ t.rxlen = 0 ∧ t.rxovf = false ∧ t.gaperr = false ∧ t.expired = false ∧
      t.crcAcc = 0xFFFF ∧ t.inputs = rest ∧ emitted (newOutputs s t) = [] ∧ completions (newOutputs s t) = [] ∧
      newOutputs s t = if s.cfg.role = .requester ∧ s.qstate = .awaitingResponse then [.disarmTimer] else []

/-- The frames of the host's pure commands, of the requester's commands and of the wire frames: what each leaves
unchanged. Registers are written only inside the range an instruction stores to; `crc_acc` by CRC.INIT and CRC.UPD only;
the engines' registers by their own instructions only; the configuration and the receive buffer's bytes by none. -/
def Obligations.InstructionFrames : Prop :=
  ∀ (i : Instr) (s t : State), exec i s = .next t →
    t.cfg = s.cfg ∧ t.rxbuf = s.rxbuf ∧ t.inputs = s.inputs ∧
    (storeRange i = none → t.hr = s.hr) ∧
    (∀ a start n, storeRange i = some (start, n) → a < start ∨ start + n ≤ a → t.hr.read a = s.hr.read a) ∧
    ((∀ b, i ≠ .crcUpd b) → i ≠ .crcInit → t.crcAcc = s.crcAcc) ∧
    (frameUnit i = none → t.rstate = s.rstate) ∧
    (s.cfg.role = .requester → t.rstate = s.rstate ∧ t.hr = s.hr) ∧
    (s.cfg.role = .responder ∨ (frameUnit i = none ∧ (∀ u a n x, i ≠ .rqSendRead u a n x) ∧
        (∀ u a d x, i ≠ .rqReadMeas u a d x) ∧ i ≠ .rqCancel) →
      t.qstate = s.qstate ∧ t.expired = s.expired ∧ t.inflight = s.inflight ∧ t.pendingMeas = s.pendingMeas ∧
      t.rxlen = s.rxlen ∧ t.rxovf = s.rxovf ∧ t.gaperr = s.gaperr) ∧
    (∃ os, t.outputs = s.outputs ++ os)

/-! ### The register file (10_state.md, 20_memory.md, 42_regfile.md) -/

/-- R21, R121, R122: the address decode of both layouts, and the one validation of an access, without wrap-around. -/
def Obligations.AddressDecodeAndValidation : Prop :=
  (∀ (c : Config) (a : Nat), c.layout = .dense → c.denseBase.toNat + c.denseCount.toNat - 1 ≤ 65535 →
    1 ≤ c.denseCount.toNat →
    (mapped c a = true ↔ c.denseBase.toNat ≤ a ∧ a ≤ c.denseBase.toNat + c.denseCount.toNat - 1)) ∧
  (∀ (c : Config) (a : Nat), c.layout = .sparse → (mapped c a = true ↔ ∃ x ∈ c.sparseMap, x.toNat = a)) ∧
  (∀ (c : Config) (a : Nat), 65535 < a → mapped c a = false) ∧
  (∀ (c : Config) (start count : Nat), validRange c start count = true ↔
    count ≠ 0 ∧ count ≤ 125 ∧ start + count - 1 ≤ 65535 ∧
      ∀ a, start ≤ a → a ≤ start + count - 1 → mapped c a = true)

/-- R123: RS.READ by its OPSEL: at a Responder it returns the words of a valid range and else IllegalDataAddress; no
state changes. -/
def Obligations.RsReadResult : Prop :=
  (∀ (start count : Word) (s : State), s.Inv → s.cfg.role = .responder →
    validRange s.cfg start.toNat count.toNat = true →
    ∃ ws : List Word, ws.length = count.toNat ∧
      (∀ i (h : i < ws.length), s.hr.read (start.toNat + i) = some ws[i]) ∧
      exec (.rsRead start count) s = .next { s with outputs := s.outputs ++ [.result (.ok (.words ws))] }) ∧
  (∀ (start count : Word) (s : State), s.cfg.role = .responder →
    validRange s.cfg start.toNat count.toNat = false →
    exec (.rsRead start count) s = .next { s with outputs := s.outputs ++ [.result (.error .illegalDataAddress)] }) ∧
  (∀ start count : Word,
    decodeCommand { opsel := 0x08, start := start, count := count } = .ok (.rsRead start count))

/-- R124, R46: RS.WRITE by its OPSEL: at a Responder it writes value `i` to `start + i` and no other register when the
range is valid, and else fails IllegalDataAddress and writes nothing. (The acknowledgement of a write is the model's
`done`, log 11: R80 gives it no result.) -/
def Obligations.RsWriteResult : Prop :=
  (∀ (start : Word) (values : List Word) (s : State), s.Inv → s.cfg.role = .responder →
    validRange s.cfg start.toNat values.length = true →
    ∃ hr : Memory, (∀ i (h : i < values.length), hr.read (start.toNat + i) = some values[i]) ∧
      (∀ a, a < start.toNat ∨ start.toNat + values.length ≤ a → hr.read a = s.hr.read a) ∧
      exec (.rsWrite start values) s =
        .next { s with hr := hr, outputs := s.outputs ++ [.result (.ok .done)] }) ∧
  (∀ (start : Word) (values : List Word) (s : State), s.cfg.role = .responder →
    validRange s.cfg start.toNat values.length = false →
    exec (.rsWrite start values) s =
      .next { s with outputs := s.outputs ++ [.result (.error .illegalDataAddress)] }) ∧
  (∀ (start : Word) (values : List Word),
    decodeCommand { opsel := 0x09, start := start, values := values } = .ok (.rsWrite start values))

/-- L5 (R123, R124): a succeeding RS.WRITE followed by an RS.READ of the same range returns the values written. -/
def Obligations.WriteThenReadReturnsTheValues : Prop :=
  ∀ (start : Word) (values : List Word) (s : State), s.Inv → s.cfg.role = .responder →
    validRange s.cfg start.toNat values.length = true →
    ∃ t, exec (.rsWrite start values) s = .next t ∧
      exec (.rsRead start (BitVec.ofNat 16 values.length)) t =
        .next { t with outputs := t.outputs ++ [.result (.ok (.words values))] }

/-- R22: MAPPED never changes after reset: no other step changes the configuration or which addresses exist. -/
def Obligations.MappedNeverChanges : Prop :=
  ∀ s t : State, step s = .next t → (∀ e rest, s.inputs = e :: rest → isReset e = false) →
    t.cfg = s.cfg ∧ (∀ a, mapped t.cfg a = mapped s.cfg a) ∧ ∀ a, (t.hr.read a).isSome = (s.hr.read a).isSome

/-- R173: no step changes a register but one that takes a reset, a host RS.WRITE of a valid range, or the Gap35 of a
validated WSR or WMR addressed to UNIT with a valid range; and then only registers of that range. -/
def Obligations.RegistersChangeOnlyByWrites : Prop :=
  ∀ (s t : State) (a : Nat), step s = .next t → t.hr.read a ≠ s.hr.read a →
    ∃ e rest, s.inputs = e :: rest ∧
      (isReset e = true ∨
       (s.cfg.role = .responder ∧ ∃ (i : Instr) (start n : Nat), storeRange i = some (start, n) ∧
          validRange s.cfg start n = true ∧ start ≤ a ∧ a < start + n ∧
          ((∃ (p : HostPort) (st : Word) (vs : List Word), e = .command p ∧ decodeCommand p = .ok i ∧ i = .rsWrite st vs) ∨
           (e = .gap35 ∧ frameUnit i = some s.cfg.unit ∧ decode .responder (.frame s.window) = .ok i))))

/-! ### The responder (44_responder.md) -/

/-- R163, R165 to R171, R224: the Gap35 step of a Responder does what the spec's pseudocode `resp_gap35` and `dispatch`
do with the outcome of the window: nothing but an empty buffer with no window; Idle after a dropped window or a frame for
another unit; and for a frame to UNIT the register file and the response or exception frame of `dispatch`, on the raw
payload. -/
def Obligations.ResponderStepRefinesDispatch : Prop :=
  ∀ (s : State) (rest : List Input), s.Inv → s.cfg.role = .responder → s.inputs = .gap35 :: rest →
    let cleared : State := { s with inputs := rest, rxlen := 0, rxovf := false, gaperr := false }
    step s = .next
      (match s.rxOutcome with
       | .noWindow => cleared
       | .dropped _ => { cleared with rstate := .idle }
       | .frame f =>
         if f.unit ≠ s.cfg.unit then { cleared with rstate := .idle }
         else { cleared with
           rstate := .idle,
           hr := (dispatchPseudocode s.cfg s.hr f).1,
           outputs := s.outputs ++
             match (dispatchPseudocode s.cfg s.hr f).2 with
             | none => []
             | some (unit, fn, payload) => [.emit (serialize unit fn payload)] })

/-- R104, R173, R212: a window a Responder drops, because of a gap, an overflow or a failing `decode`, leaves no trace:
nothing is emitted, no register changes, Idle with an empty buffer. -/
def Obligations.DroppedWindowsLeaveNoTrace : Prop :=
  ∀ (s : State) (rest : List Input), s.cfg.role = .responder → s.inputs = .gap35 :: rest → s.rxlen ≠ 0 →
    (s.gaperr = true ∨ s.rxovf = true ∨ ∃ e, frameDecode s.window = .error e) →
    step s = .next { s with inputs := rest, rxlen := 0, rxovf := false, gaperr := false, rstate := .idle }

/-- R164: a valid frame for another unit is neither executed nor answered, whatever its function code and payload; with a
legal configuration a frame to 0 or to 248..255 never matches. The seven wire instructions say the same. -/
def Obligations.FramesForOtherUnitsAreIgnored : Prop :=
  (∀ (s : State) (rest : List Input) (f : Frame), s.cfg.role = .responder → s.inputs = .gap35 :: rest →
    s.rxOutcome = .frame f → f.unit ≠ s.cfg.unit →
    step s = .next { s with inputs := rest, rxlen := 0, rxovf := false, gaperr := false, rstate := .idle }) ∧
  (∀ (i : Instr) (u : Byte) (s : State), s.cfg.role = .responder → frameUnit i = some u → u ≠ s.cfg.unit →
    exec i s = .next { s with rstate := .idle }) ∧
  (∀ (c : Config) (u : Byte), c.legal = true → c.role = .responder → u = 0 ∨ 248 ≤ u.toNat → u ≠ c.unit)

/-- R166: RHR addressed to UNIT answers with the registers of a valid range, each high byte first after the byte count,
and else with exception 0x02; no register changes. -/
def Obligations.RhrAnswersWithTheRegisters : Prop :=
  ∀ (start count : Word) (s : State), s.Inv → s.cfg.role = .responder →
    (validRange s.cfg start.toNat count.toNat = true → ∃ ws : List Word, ws.length = count.toNat ∧
      (∀ i (h : i < ws.length), s.hr.read (start.toNat + i) = some ws[i]) ∧
      exec (.rhr s.cfg.unit start count) s = .next { s with
        rstate := .idle,
        outputs := s.outputs ++ [.emit (serialize s.cfg.unit 0x03
          (BitVec.ofNat 8 (2 * count.toNat) :: ws.flatMap (fun w => [hi8 w, lo8 w])))] }) ∧
    (validRange s.cfg start.toNat count.toNat = false →
      exec (.rhr s.cfg.unit start count) s = .next { s with
        rstate := .idle, outputs := s.outputs ++ [.emit (serialize s.cfg.unit 0x83 [0x02])] })

/-- R167, R62: WSR addressed to UNIT, and the same bytes under the name WSR.R, write the one register and answer with the
request repeated; an unmapped address is answered with exception 0x02 and writes nothing. -/
def Obligations.WsrWritesOneRegister : Prop :=
  ∀ (addr value : Word) (s : State), s.Inv → s.cfg.role = .responder →
    (mapped s.cfg addr.toNat = true → ∃ hr : Memory, hr.read addr.toNat = some value ∧
      (∀ a, a ≠ addr.toNat → hr.read a = s.hr.read a) ∧
      ∀ i, i = .wsr s.cfg.unit addr value ∨ i = .wsrR s.cfg.unit addr value →
        exec i s = .next { s with
          hr := hr, rstate := .idle,
          outputs := s.outputs ++
            [.emit (serialize s.cfg.unit 0x06 [hi8 addr, lo8 addr, hi8 value, lo8 value])] }) ∧
    (mapped s.cfg addr.toNat = false → ∀ i, i = .wsr s.cfg.unit addr value ∨ i = .wsrR s.cfg.unit addr value →
      exec i s = .next { s with
        rstate := .idle, outputs := s.outputs ++ [.emit (serialize s.cfg.unit 0x86 [0x02])] })

/-- R168: WMR addressed to UNIT writes value `i` to `start + i` and answers with start and count; a range that is not
valid is answered with exception 0x02 and writes nothing. -/
def Obligations.WmrWritesTheRegisters : Prop :=
  ∀ (start : Word) (values : List Word) (s : State), s.Inv → s.cfg.role = .responder → values.length ≤ 123 →
    (validRange s.cfg start.toNat values.length = true → ∃ hr : Memory,
      (∀ i (h : i < values.length), hr.read (start.toNat + i) = some values[i]) ∧
      (∀ a, a < start.toNat ∨ start.toNat + values.length ≤ a → hr.read a = s.hr.read a) ∧
      exec (.wmr s.cfg.unit start values) s = .next { s with
        hr := hr, rstate := .idle,
        outputs := s.outputs ++ [.emit (serialize s.cfg.unit 0x10
          [hi8 start, lo8 start, hi8 (BitVec.ofNat 16 values.length), lo8 (BitVec.ofNat 16 values.length)])] }) ∧
    (validRange s.cfg start.toNat values.length = false →
      exec (.wmr s.cfg.unit start values) s = .next { s with
        rstate := .idle, outputs := s.outputs ++ [.emit (serialize s.cfg.unit 0x90 [0x02])] })

/-- R169: to a Responder, a frame for its unit with an unsupported function code below 0x80 is answered with exception
0x01 whatever its payload, and one with a code of 0x80 or above is dropped; no register changes. -/
def Obligations.UnsupportedFunctionsAnswered : Prop :=
  ∀ (s : State) (rest : List Input) (f : Frame), s.cfg.role = .responder → s.inputs = .gap35 :: rest →
    s.rxOutcome = .frame f → f.unit = s.cfg.unit →
    (f.fn.toNat < 0x80 → f.fn ≠ 0x03 → f.fn ≠ 0x06 → f.fn ≠ 0x10 →
      step s = .next { s with
        inputs := rest, rxlen := 0, rxovf := false, gaperr := false, rstate := .idle,
        outputs := s.outputs ++ [.emit (serialize s.cfg.unit (f.fn ||| 0x80) [0x01])] }) ∧
    (0x80 ≤ f.fn.toNat →
      step s = .next { s with inputs := rest, rxlen := 0, rxovf := false, gaperr := false, rstate := .idle })

/-- R171, R62: at a Responder, response frames that are no request of its format: RHR.R and WMR.R addressed to UNIT are
answered with exception 0x03, EXC is dropped (R169); no register changes. -/
def Obligations.ResponseFramesAtAResponder : Prop :=
  ∀ s : State, s.cfg.role = .responder →
    (∀ words : List Word, exec (.rhrR s.cfg.unit words) s = .next { s with
      rstate := .idle, outputs := s.outputs ++ [.emit (serialize s.cfg.unit 0x83 [0x03])] }) ∧
    (∀ start count : Word, exec (.wmrR s.cfg.unit start count) s = .next { s with
      rstate := .idle, outputs := s.outputs ++ [.emit (serialize s.cfg.unit 0x90 [0x03])] }) ∧
    (∀ (fn : BitVec 7) (code : Byte), exec (.exc s.cfg.unit fn code) s = .next { s with rstate := .idle })

/-- R172 (L10, L11): a step of a Responder emits at most one frame, and only on the Gap35 of a valid frame addressed to
UNIT with a function code below 0x80; what it emits decodes, has unit UNIT, at most 251 payload bytes, and the request's
function code, or that with bit 7 set and one payload byte 0x01, 0x02 or 0x03. -/
def Obligations.ResponderEmitsOneWellFormedFrame : Prop :=
  ∀ s t : State, s.Inv → s.cfg.role = .responder → step s = .next t →
    (∀ e rest, s.inputs = e :: rest → isReset e = false) →
    emitted (newOutputs s t) = [] ∨
    ∃ (f g : Frame) (bytes : List Byte) (rest : List Input),
      s.inputs = .gap35 :: rest ∧ frameDecode s.window = .ok f ∧ f.unit = s.cfg.unit ∧ f.fn.toNat < 0x80 ∧
      emitted (newOutputs s t) = [bytes] ∧ frameDecode bytes = .ok g ∧ g.unit = s.cfg.unit ∧ g.payload.length ≤ 251 ∧
      (g.fn = f.fn ∨ (g.fn = f.fn ||| 0x80 ∧ (g.payload = [0x01] ∨ g.payload = [0x02] ∨ g.payload = [0x03])))

/-- L12 (R163): after every Gap35 step of a Responder it is Idle with an empty buffer and clear flags. -/
def Obligations.ResponderIsIdleAfterGap35 : Prop :=
  ∀ (s : State) (rest : List Input), s.Inv → s.cfg.role = .responder → s.inputs = .gap35 :: rest →
    ∃ t, step s = .next t ∧ t.rstate = .idle ∧ t.rxlen = 0 ∧ t.rxovf = false ∧ t.gaperr = false

/-- R231: frames leave the block only on the Gap35 of a Responder or on a read command of a Requester, results of host
commands only on a command, and results of pending commands only at a Requester in AwaitingResponse. -/
def Obligations.OnlyTheseStepsPutOut : Prop :=
  ∀ s t : State, step s = .next t → ∃ os, t.outputs = s.outputs ++ os ∧
    (emitted os ≠ [] → (s.cfg.role = .responder ∧ ∃ rest, s.inputs = .gap35 :: rest) ∨
      (s.cfg.role = .requester ∧ ∃ p rest, s.inputs = .command p :: rest ∧ (p.opsel = 0x10 ∨ p.opsel = 0x12))) ∧
    (results os ≠ [] → ∃ p rest, s.inputs = .command p :: rest) ∧
    (completions os ≠ [] → s.cfg.role = .requester ∧ s.qstate = .awaitingResponse)

/-! ### The requester (45_requester.md) -/

/-- R187: RQ.SENDREAD by its OPSEL. In Idle, to a unit 1..247 and with any start and count, it emits the one eight-byte
request, arms the timer, records the request and waits, with nothing received before it kept; in AwaitingResponse it
fails Busy and the pending command is untouched. (Busy also on an illegal unit: the model's choice, log 12.) -/
def Obligations.SendReadOpensTheExchange : Prop :=
  ∀ (unit : Byte) (start count : Word) (timeout : BitVec 32),
    decodeCommand { opsel := 0x10, unit := unit, start := start, count := count, timeout := timeout } =
      .ok (.rqSendRead unit start count timeout) ∧
    ∀ s : State, s.cfg.role = .requester →
    (s.qstate = .idle → 1 ≤ unit.toNat → unit.toNat ≤ 247 →
      exec (.rqSendRead unit start count timeout) s = .next { s with
        rxlen := 0, rxovf := false, gaperr := false, qstate := .awaitingResponse, expired := false, pendingMeas := none,
        inflight := { unit := unit, fn := 0x03, start := start, count := count },
        outputs := s.outputs ++
          [.emit (serialize unit 0x03 [hi8 start, lo8 start, hi8 count, lo8 count]), .armTimer timeout] }) ∧
    (s.qstate = .awaitingResponse → exec (.rqSendRead unit start count timeout) s =
      .next { s with outputs := s.outputs ++ [.result (.error .busy)] })

/-- R195: RQ.READMEAS in Idle sends the read of one register for span 1 and two for span 2 and keeps the descriptor; in
AwaitingResponse it fails Busy; the matching data response ends the command with DEC.MEAS of its words, and an exception
with its error. (The model's choices: where the descriptor is kept, log 7; Busy before the operands are looked at, so also
on an illegal unit or descriptor, log 12; a descriptor of span 2 runs whatever its scale, 0 included, log 13.) -/
def Obligations.ReadMeasReadsAndDecodes : Prop :=
  (∀ (unit : Byte) (addr : Word) (d : Descriptor) (timeout : BitVec 32) (s : State), s.cfg.role = .requester →
    (s.qstate = .idle → 1 ≤ unit.toNat → unit.toNat ≤ 247 → (d.span = .one → d.scale ≠ 0) →
      ∃ n : Word, n.toNat = (if d.span = .one then 1 else 2) ∧
        exec (.rqReadMeas unit addr d timeout) s = .next { s with
          rxlen := 0, rxovf := false, gaperr := false, qstate := .awaitingResponse, expired := false,
          pendingMeas := some d, inflight := { unit := unit, fn := 0x03, start := addr, count := n },
          outputs := s.outputs ++
            [.emit (serialize unit 0x03 [hi8 addr, lo8 addr, hi8 n, lo8 n]), .armTimer timeout] }) ∧
    (s.qstate = .awaitingResponse → exec (.rqReadMeas unit addr d timeout) s =
      .next { s with outputs := s.outputs ++ [.result (.error .busy)] })) ∧
  (∀ (d : Descriptor) (s : State), s.cfg.role = .requester → s.qstate = .awaitingResponse →
    s.inflight.fn = 0x03 → s.pendingMeas = some d →
    (∀ words : List Word, words.length = s.inflight.count.toNat →
      ∃ t, exec (.rhrR s.inflight.unit words) s = .next t ∧ t.qstate = .idle ∧ t.outputs = s.outputs ++
        [.completion ((decMeas s.cfg.acceptNonfinite words d).map .float), .disarmTimer]) ∧
    (∀ code : Byte, ∃ t, exec (.exc s.inflight.unit 0x03 code) s = .next t ∧ t.qstate = .idle ∧ t.outputs = s.outputs ++
        [.completion (.error (excName code)), .disarmTimer]))

/-- R190: in AwaitingResponse of a RQ.SENDREAD, RHR.R from the unit asked, with as many words as registers asked for,
ends the exchange with those words; Idle, timer disarmed, receive buffer clear. -/
def Obligations.DataResponseEndsTheExchange : Prop :=
  ∀ (words : List Word) (s : State), s.cfg.role = .requester → s.qstate = .awaitingResponse →
    s.inflight.fn = 0x03 → words.length = s.inflight.count.toNat → s.pendingMeas = none →
    exec (.rhrR s.inflight.unit words) s = .next { s with
      rxlen := 0, rxovf := false, gaperr := false, expired := false, qstate := .idle,
      outputs := s.outputs ++ [.completion (.ok (.words words)), .disarmTimer] }

/-- R191, R211: in AwaitingResponse, the exception frame of the request's function from the unit asked ends the exchange
at once with the mapped error, for every code. -/
def Obligations.ExceptionResponseEndsTheExchange : Prop :=
  ∀ (code : Byte) (s : State), s.cfg.role = .requester → s.qstate = .awaitingResponse → s.inflight.fn = 0x03 →
    ∃ error : CoreError,
      ((code = 0x01 ∧ error = .illegalFunction) ∨ (code = 0x02 ∧ error = .illegalDataAddress) ∨
       (code = 0x03 ∧ error = .illegalDataValue) ∨ (code = 0x04 ∧ error = .slaveDeviceFailure) ∨
       ((code = 0x00 ∨ 0x05 ≤ code.toNat) ∧ error = .unknownException code)) ∧
      exec (.exc s.inflight.unit 0x03 code) s = .next { s with
        rxlen := 0, rxovf := false, gaperr := false, expired := false, pendingMeas := none, qstate := .idle,
        outputs := s.outputs ++ [.completion (.error error), .disarmTimer] }

/-- R189 (L14), R73: a frame that is no matching response, in AwaitingResponse: WSR.R, WMR.R, a request, RHR.R or EXC from
another unit, a data response of another length, an exception to another function. It changes nothing while the timeout
has not expired, and ends the exchange with ResponseTimeout when it has. -/
def Obligations.MismatchedFramesAreDiscarded : Prop :=
  ∀ (i : Instr) (s : State), s.cfg.role = .requester → s.qstate = .awaitingResponse → s.inflight.fn = 0x03 →
    ((∃ u a b, i = .wsrR u a b ∨ i = .wmrR u a b ∨ i = .rhr u a b ∨ i = .wsr u a b) ∨
     (∃ u a vs, i = .wmr u a vs) ∨
     (∃ u ws, i = .rhrR u ws ∧ (u ≠ s.inflight.unit ∨ ws.length ≠ s.inflight.count.toNat)) ∨
     (∃ u fn code, i = .exc u fn code ∧ (u ≠ s.inflight.unit ∨ fn ≠ 0x03))) →
    (s.expired = false → exec i s = .next s) ∧
    (s.expired = true → exec i s = .next { s with
      rxlen := 0, rxovf := false, gaperr := false, expired := false, pendingMeas := none, qstate := .idle,
      outputs := s.outputs ++ [.completion (.error .responseTimeout), .disarmTimer] })

/-- R189, R225: the Gap35 step of a Requester in AwaitingResponse does what the spec's pseudocode `req_gap35`, `classify`
and `discard_window` do with the outcome of the window: nothing but an empty buffer with no window; the exchange ended
with the words or the mapped error; or the window discarded, which ends the exchange only after the timeout. (That the
descriptor of a pending RQ.READMEAS is held in the state, `pendingMeas`, is the model's, log 7.) -/
def Obligations.RequesterStepRefinesClassify : Prop :=
  ∀ (s : State) (rest : List Input), s.Inv → s.cfg.role = .requester → s.qstate = .awaitingResponse →
    s.inputs = .gap35 :: rest →
    let cleared : State := { s with inputs := rest, rxlen := 0, rxovf := false, gaperr := false }
    let ended (r : Except CoreError (List Word)) : State := { cleared with
      expired := false, pendingMeas := none, qstate := .idle,
      outputs := s.outputs ++ [.completion (s.pendingResult r), .disarmTimer] }
    let discarded : State := if s.expired then ended (.error .responseTimeout) else cleared
    step s = .next
      (match s.rxOutcome with
       | .noWindow => cleared
       | .dropped _ => discarded
       | .frame f =>
         match classifyPseudocode s.inflight f with
         | some r => ended r
         | none => discarded)

/-- R192, R174: TimeoutExpire in AwaitingResponse ends the exchange with ResponseTimeout when no byte of a window has
been received, and else only sets `expired`. -/
def Obligations.TimeoutEndsOrMarks : Prop :=
  ∀ (s : State) (rest : List Input), s.cfg.role = .requester → s.qstate = .awaitingResponse →
    s.inputs = .timeoutExpire :: rest →
    (s.rxlen = 0 → step s = .next { s with
      inputs := rest, rxovf := false, gaperr := false, expired := false, pendingMeas := none, qstate := .idle,
      outputs := s.outputs ++ [.completion (.error .responseTimeout), .disarmTimer] }) ∧
    (s.rxlen ≠ 0 → step s = .next { s with inputs := rest, expired := true })

/-- R194: RQ.CANCEL by its OPSEL. In AwaitingResponse it gives the pending command the result Cancelled, emits nothing and
leaves the engine in Idle with an empty buffer; in Idle it does nothing. (The command's own acknowledgement is the model's
`done`, log 11.) -/
def Obligations.CancelEndsTheExchange : Prop :=
  decodeCommand { opsel := 0x11 } = .ok .rqCancel ∧
  ∀ s : State, s.cfg.role = .requester →
    (s.qstate = .awaitingResponse → exec .rqCancel s = .next { s with
      rxlen := 0, rxovf := false, gaperr := false, expired := false, pendingMeas := none, qstate := .idle,
      outputs := s.outputs ++ [.completion (.error .cancelled), .disarmTimer, .result (.ok .done)] }) ∧
    (s.qstate = .idle → exec .rqCancel s = .next { s with outputs := s.outputs ++ [.result (.ok .done)] })

/-- R188, R193: in Idle a Requester ignores RxByte, Gap15, Gap35 and TimeoutExpire, whatever was received before. -/
def Obligations.IdleRequesterIgnoresEvents : Prop :=
  ∀ (s : State) (e : Input) (rest : List Input), s.cfg.role = .requester → s.qstate = .idle → s.inputs = e :: rest →
    ((∃ b, e = .rxByte b) ∨ e = .gap15 ∨ e = .gap35 ∨ e = .timeoutExpire) →
    step s = .next { s with inputs := rest }

/-- L13 (R186, R187): a step of a Requester delivers a result of the pending command exactly when it leaves
AwaitingResponse, and then one; it enters AwaitingResponse only on a read command, which then gets no other result. -/
def Obligations.OneResultPerExchange : Prop :=
  ∀ s t : State, s.Inv → s.cfg.role = .requester → step s = .next t →
    (∀ e rest, s.inputs = e :: rest → isReset e = false) →
    (s.qstate = .awaitingResponse → t.qstate = .idle → ∃ r, completions (newOutputs s t) = [r]) ∧
    (s.qstate = .idle ∨ t.qstate = .awaitingResponse → completions (newOutputs s t) = []) ∧
    (s.qstate = .idle → t.qstate = .awaitingResponse →
      ∃ p rest, s.inputs = .command p :: rest ∧ (p.opsel = 0x10 ∨ p.opsel = 0x12) ∧
        results (newOutputs s t) = [] ∧ ∃ bytes, emitted (newOutputs s t) = [bytes])

/-! ### The codec (43_codec.md) -/

/-- R146: the value of a finite pattern, in both formats, by the rule's formulas: normal, subnormal and zero. -/
def Obligations.FloatValuesAreIeee : Prop :=
  ∀ fmt : FloatFormat, fmt = binary32 ∨ fmt = binary64 → ∀ p : Nat, isFinitePattern fmt p →
    (floatExp fmt p ≠ 0 → floatValue fmt p =
      (if floatSign fmt p then -1 else 1) * (2 : ℚ) ^ ((floatExp fmt p : ℤ) - (2 ^ (fmt.expBits - 1) - 1)) *
        (1 + (floatFrac fmt p : ℚ) / 2 ^ fmt.fracBits)) ∧
    (floatExp fmt p = 0 → floatValue fmt p =
      (if floatSign fmt p then -1 else 1) * (2 : ℚ) ^ ((1 : ℤ) - (2 ^ (fmt.expBits - 1) - 1)) *
        ((floatFrac fmt p : ℚ) / 2 ^ fmt.fracBits))

/-- R137, R140: the product and the quotient of finite operands are the exact ones rounded to nearest, ties to even, and
every 16-bit integer, signed or not, is converted exactly. -/
def Obligations.ProductAndQuotientAreCorrectlyRounded : Prop :=
  (∀ a b : F64, isNonfinite binary64 a.toNat = false → isNonfinite binary64 b.toNat = false →
    CorrectlyRounded binary64 (floatValue binary64 a.toNat * floatValue binary64 b.toNat) (mulF64 a b).toNat) ∧
  (∀ a b : F64, isNonfinite binary64 a.toNat = false → isNonfinite binary64 b.toNat = false →
    floatValue binary64 b.toNat ≠ 0 →
    CorrectlyRounded binary64 (floatValue binary64 a.toNat / floatValue binary64 b.toNat) (divF64 a b).toNat) ∧
  (∀ n : Int, n.natAbs ≤ 65535 →
    isNonfinite binary64 (f64OfInt n).toNat = false ∧ floatValue binary64 (f64OfInt n).toNat = n)

/-- R145: `narrow` of a finite value is it rounded to nearest, ties to even, in binary32, with its sign; of an infinity
the infinity of its sign; of a NaN the quiet NaN with its sign and its top 23 fraction bits. -/
def Obligations.NarrowFollowsItsTable : Prop :=
  ∀ v : F64,
    floatSign binary32 (narrow v).toNat = floatSign binary64 v.toNat ∧
    (isNonfinite binary64 v.toNat = false → CorrectlyRounded binary32 (floatValue binary64 v.toNat) (narrow v).toNat) ∧
    (isNonfinite binary64 v.toNat = true → isNaN binary64 v.toNat = false →
      narrow v = if floatSign binary64 v.toNat then 0xFF800000 else 0x7F800000) ∧
    (isNaN binary64 v.toNat = true → floatExp binary32 (narrow v).toNat = 0xFF ∧
      floatFrac binary32 (narrow v).toNat = floatFrac binary64 v.toNat / 2 ^ 29 ||| 0x400000)

/-- R138: `round_haz` of a finite value is the sign times the floor of the exact magnitude plus one half; from `2^52` on
it is the value; with the rule's examples. -/
def Obligations.RoundHalfAwayIsExact : Prop :=
  (∀ p : F64, isNonfinite binary64 p.toNat = false →
    roundHalfAway p =
      (if floatSign binary64 p.toNat then -⌊|floatValue binary64 p.toNat| + 1 / 2⌋
       else ⌊|floatValue binary64 p.toNat| + 1 / 2⌋) ∧
    ((2 : ℚ) ^ 52 ≤ |floatValue binary64 p.toNat| → (roundHalfAway p : ℚ) = floatValue binary64 p.toNat)) ∧
  roundHalfAway 0x3FE0000000000000 = 1 ∧ roundHalfAway 0xBFE0000000000000 = -1 ∧
  roundHalfAway 0x3FF8000000000000 = 2 ∧ roundHalfAway 0x4004000000000000 = 3 ∧
  roundHalfAway 0xC004000000000000 = -3 ∧ roundHalfAway 0x3FDFFFFFFFFFFFFF = 0 ∧
  roundHalfAway 0 = 0 ∧ roundHalfAway 0x8000000000000000 = 0

/-- R136: ENC.SCALED by its OPSEL, with a scale 1..65535, fails ValueOutOfRange on NaN, infinity, an infinite product and
a rounded integer outside the word's range, and else returns the integer's low 16 bits; no other state changes. -/
def Obligations.EncScaledResult : Prop :=
  (∀ (value : F64) (scale : Word) (signed : Bool) (s : State), scale ≠ 0 →
    let p := mulF64 value (f64OfInt scale.toNat)
    let r := roundHalfAway p
    let fits := isNonfinite binary64 value.toNat = false ∧ isNonfinite binary64 p.toNat = false ∧
      (if signed then -32768 ≤ r ∧ r ≤ 32767 else 0 ≤ r ∧ r ≤ 65535)
    (fits → ∃ w : Word, (w.toNat : Int) = r % 65536 ∧
      exec (.encScaled value scale signed) s = .next { s with outputs := s.outputs ++ [.result (.ok (.word w))] }) ∧
    (¬fits → exec (.encScaled value scale signed) s =
      .next { s with outputs := s.outputs ++ [.result (.error .valueOutOfRange)] })) ∧
  (∀ (value : F64) (scale : Word) (signed : BitVec 1),
    decodeCommand { opsel := 0x0C, value := value, scale := scale, signed := signed } =
      .ok (.encScaled value scale (signed = 1)))

/-- R140: DEC.SCALED by its OPSEL, with a scale 1..65535, returns the quotient of the word, read as signed or not, and the
scale, correctly rounded to binary64; it is finite, and `+0.0` for the word 0; no other state changes. -/
def Obligations.DecScaledResult : Prop :=
  (∀ (word scale : Word) (signed : Bool) (s : State), scale ≠ 0 →
    let n : Int := if signed then word.toInt else word.toNat
    ∃ x : F64, CorrectlyRounded binary64 ((n : ℚ) / (scale.toNat : ℚ)) x.toNat ∧
      isNonfinite binary64 x.toNat = false ∧ (word = 0 → x = 0) ∧
      exec (.decScaled word scale signed) s =
        .next { s with outputs := s.outputs ++ [.result (.ok (.float x))] }) ∧
  (∀ (word scale : Word) (signed : BitVec 1),
    decodeCommand { opsel := 0x0D, word := word, scale := scale, signed := signed } =
      .ok (.decScaled word scale (signed = 1)))

/-- R142 (L9): encoding the decoded value gives the word back, for every word, every legal scale and both `signed`. -/
def Obligations.ScaledRoundTrip : Prop :=
  ∀ (word scale : Word) (signed : Bool), scale ≠ 0 →
    encScaled (decScaled word scale signed) scale signed = .ok word

/-- R143: the four orders by bytes B3 B2 B1 B0, in the registers and on the wire, and `unpack_order` inverts
`pack_order`. -/
def Obligations.OrdersFollowTheirTable : Prop :=
  (∀ b3 b2 b1 b0 : Byte,
    let bits : BitVec 32 := ((mk16 b3 b2).setWidth 32 <<< 16) ||| (mk16 b1 b0).setWidth 32
    let wire (r : Word × Word) := wordBytes [r.1, r.2]
    packOrder bits .big .big = (mk16 b3 b2, mk16 b1 b0) ∧ wire (packOrder bits .big .big) = [b3, b2, b1, b0] ∧
    packOrder bits .big .little = (mk16 b1 b0, mk16 b3 b2) ∧ wire (packOrder bits .big .little) = [b1, b0, b3, b2] ∧
    packOrder bits .little .big = (mk16 b2 b3, mk16 b0 b1) ∧ wire (packOrder bits .little .big) = [b2, b3, b0, b1] ∧
    packOrder bits .little .little = (mk16 b0 b1, mk16 b2 b3) ∧
      wire (packOrder bits .little .little) = [b0, b1, b2, b3]) ∧
  (∀ (bits : BitVec 32) (byteOrder wordOrder : Order),
    unpackOrder (packOrder bits byteOrder wordOrder).1 (packOrder bits byteOrder wordOrder).2 byteOrder wordOrder = bits)

/-- R149: `widen` has the same value as every finite pattern and keeps its sign, takes an infinity to the infinity of its
sign and a NaN to the NaN with its sign and the fraction `(f << 29) | 2^51`; the least subnormal is `2^-149`. -/
def Obligations.WidenIsExact : Prop :=
  (∀ bits : BitVec 32,
    floatSign binary64 (widen bits).toNat = floatSign binary32 bits.toNat ∧
    (isNonfinite binary32 bits.toNat = false → isNonfinite binary64 (widen bits).toNat = false ∧
      floatValue binary64 (widen bits).toNat = floatValue binary32 bits.toNat) ∧
    (isNonfinite binary32 bits.toNat = true → isNaN binary32 bits.toNat = false →
      isNonfinite binary64 (widen bits).toNat = true ∧ floatFrac binary64 (widen bits).toNat = 0) ∧
    (isNaN binary32 bits.toNat = true → floatExp binary64 (widen bits).toNat = 0x7FF ∧
      floatFrac binary64 (widen bits).toNat = floatFrac binary32 bits.toNat * 2 ^ 29 ||| 2 ^ 51)) ∧
  widen 0x00000001 = 0x36A0000000000000

/-- R150 (L8): a finite value that is a binary32 value comes back exactly through ENC.F32 and DEC.F32 in all four orders;
another finite value comes back as `widen` of `narrow` unless it narrows to an infinity, which is MalformedFloat by
default, as a NaN is; and words with a finite pattern come back through DEC.F32 and ENC.F32. -/
def Obligations.Float32RoundTrip : Prop :=
  (∀ (v : F64) (byteOrder wordOrder : Order) (b : BitVec 32), isNonfinite binary32 b.toNat = false → v = widen b →
    decF32 false (encF32 v byteOrder wordOrder).1 (encF32 v byteOrder wordOrder).2 byteOrder wordOrder = .ok v) ∧
  (∀ (v : F64) (byteOrder wordOrder : Order),
    decF32 false (encF32 v byteOrder wordOrder).1 (encF32 v byteOrder wordOrder).2 byteOrder wordOrder =
      if isNonfinite binary64 v.toNat = true ∨ overflowBound binary32 ≤ |floatValue binary64 v.toNat| then
        .error .malformedFloat
      else .ok (widen (narrow v))) ∧
  (∀ (reg0 reg1 : Word) (byteOrder wordOrder : Order),
    isNonfinite binary32 (unpackOrder reg0 reg1 byteOrder wordOrder).toNat = false →
    ∃ v : F64, decF32 false reg0 reg1 byteOrder wordOrder = .ok v ∧ encF32 v byteOrder wordOrder = (reg0, reg1))

/-- R144, R147, R148: ENC.F32 by its OPSEL always returns the two registers of the narrowed value; DEC.F32 by its OPSEL
fails MalformedFloat exactly on a pattern whose exponent field is all ones when ACCEPT_NONFINITE is 0, and else returns
its widening. No other state changes. -/
def Obligations.Float32CommandResults : Prop :=
  (∀ (value : F64) (byteOrder wordOrder : Order) (s : State),
    exec (.encF32 value byteOrder wordOrder) s = .next { s with outputs := s.outputs ++ [.result (.ok (.words
      [(packOrder (narrow value) byteOrder wordOrder).1, (packOrder (narrow value) byteOrder wordOrder).2]))] }) ∧
  (∀ (reg0 reg1 : Word) (byteOrder wordOrder : Order) (s : State),
    let bits := unpackOrder reg0 reg1 byteOrder wordOrder
    (bits.toNat / 2 ^ 23 % 2 ^ 8 = 0xFF → s.cfg.acceptNonfinite = false →
      exec (.decF32 reg0 reg1 byteOrder wordOrder) s =
        .next { s with outputs := s.outputs ++ [.result (.error .malformedFloat)] }) ∧
    (bits.toNat / 2 ^ 23 % 2 ^ 8 ≠ 0xFF ∨ s.cfg.acceptNonfinite = true →
      exec (.decF32 reg0 reg1 byteOrder wordOrder) s =
        .next { s with outputs := s.outputs ++ [.result (.ok (.float (widen bits)))] })) ∧
  (∀ (value : F64) (reg0 reg1 : Word) (b w : BitVec 1),
    let order (x : BitVec 1) : Order := if x = 0 then .big else .little
    decodeCommand { opsel := 0x0E, value := value, byteOrder := b, wordOrder := w } =
      .ok (.encF32 value (order b) (order w)) ∧
    decodeCommand { opsel := 0x0F, reg0 := reg0, reg1 := reg1, byteOrder := b, wordOrder := w } =
      .ok (.decF32 reg0 reg1 (order b) (order w)))

/-- R152, R153, R154: ENC.MEAS and DEC.MEAS by their OPSEL are the scaled codec for span 1, whose byte order is not looked
at, and the float codec for span 2, the words in address order. No other state changes. (That a descriptor of span 2 runs
whatever its scale, 0 included, is the model's choice, log 13: U5 can be read to refuse it.) -/
def Obligations.MeasurementsFollowTheirDescriptor : Prop :=
  (∀ (d : Descriptor) (s : State),
    (d.span = .one → d.scale ≠ 0 → ∀ (value : F64) (word : Word),
      exec (.encMeas value d) s = .next { s with outputs := s.outputs ++
        [.result ((encScaled value d.scale d.signed).map (fun w => .words [w]))] } ∧
      exec (.decMeas [word] d) s = .next { s with outputs := s.outputs ++
        [.result (.ok (.float (decScaled word d.scale d.signed)))] }) ∧
    (d.span = .two → ∀ (value : F64) (reg0 reg1 : Word),
      exec (.encMeas value d) s = .next { s with outputs := s.outputs ++
        [.result (.ok (.words [(encF32 value d.byteOrder d.wordOrder).1, (encF32 value d.byteOrder d.wordOrder).2]))] } ∧
      exec (.decMeas [reg0, reg1] d) s = .next { s with outputs := s.outputs ++
        [.result ((decF32 s.cfg.acceptNonfinite reg0 reg1 d.byteOrder d.wordOrder).map .float)] })) ∧
  (∀ (value : F64) (words : List Word) (scale : Word) (signed b w n : BitVec 1),
    let order (x : BitVec 1) : Order := if x = 0 then .big else .little
    let d : Descriptor := { span := if n = 0 then .one else .two, scale := scale, signed := signed = 1,
                            byteOrder := order b, wordOrder := order w }
    decodeCommand { opsel := 0x0A, value := value, span := n, scale := scale, signed := signed,
                    byteOrder := b, wordOrder := w } = .ok (.encMeas value d) ∧
    decodeCommand { opsel := 0x0B, words := words, span := n, scale := scale, signed := signed,
                    byteOrder := b, wordOrder := w } = .ok (.decMeas words d))
end

