-- ==== Sys2Proof/Laws/Bytes.lean ====
section
/-! SUPPORT. Laws of the byte order and of the sizes of payloads and frames. -/

namespace Sys2Proof.Machine

theorem hi8_toNat (w : Word) : (hi8 w).toNat = w.toNat / 256 := by
  simp only [hi8, BitVec.extractLsb'_toNat, Nat.shiftRight_eq_div_pow]
  have := w.isLt
  omega

theorem lo8_toNat (w : Word) : (lo8 w).toNat = w.toNat % 256 := by
  simp [lo8]

theorem mk16_toNat (h l : Byte) : (mk16 h l).toNat = 256 * h.toNat + l.toNat := by
  have hh := h.isLt
  have hl := l.isLt
  have h1 : (h.setWidth 16 <<< 8).toNat = 2 ^ 8 * h.toNat := by
    simp only [BitVec.toNat_shiftLeft, BitVec.toNat_setWidth, Nat.shiftLeft_eq]
    omega
  have h2 : (l.setWidth 16).toNat = l.toNat := by
    simp only [BitVec.toNat_setWidth]
    omega
  simp only [mk16, BitVec.toNat_or, h1, h2]
  rw [← Nat.two_pow_add_eq_or_of_lt hl]

@[simp] theorem mk16_hi8_lo8 (w : Word) : mk16 (hi8 w) (lo8 w) = w := by
  apply BitVec.eq_of_toNat_eq
  rw [mk16_toNat, hi8_toNat, lo8_toNat]
  omega

@[simp] theorem hi8_mk16 (h l : Byte) : hi8 (mk16 h l) = h := by
  apply BitVec.eq_of_toNat_eq
  have := l.isLt
  rw [hi8_toNat, mk16_toNat]
  omega

@[simp] theorem lo8_mk16 (h l : Byte) : lo8 (mk16 h l) = l := by
  apply BitVec.eq_of_toNat_eq
  have := l.isLt
  rw [lo8_toNat, mk16_toNat]
  omega

theorem bswap16_bswap16 (w : Word) : bswap16 (bswap16 w) = w := by
  simp [bswap16]

@[simp] theorem wordBytes_length (ws : List Word) : (wordBytes ws).length = 2 * ws.length := by
  induction ws with
  | nil => rfl
  | cons w ws ih => simp only [wordBytes, List.length_cons, ih]; omega

@[simp] theorem bytesWords_wordBytes (ws : List Word) : bytesWords (wordBytes ws) = ws := by
  induction ws with
  | nil => rfl
  | cons w ws ih => simp [wordBytes, bytesWords, ih]

theorem wordBytes_eq_flatMap (ws : List Word) : wordBytes ws = ws.flatMap (fun w => [hi8 w, lo8 w]) := by
  induction ws with
  | nil => rfl
  | cons w ws ih => simp [wordBytes, ih]

/-- Two bytes at a time: an even number of bytes is the bytes of its words. -/
theorem wordBytes_bytesWords : ∀ bs : List Byte, bs.length % 2 = 0 → wordBytes (bytesWords bs) = bs
  | [], _ => rfl
  | [_], h => by simp at h
  | a :: b :: rest, h => by
    have := wordBytes_bytesWords rest (by simp at h; omega)
    simp [bytesWords, wordBytes, this]

theorem bytesWords_length : ∀ bs : List Byte, (bytesWords bs).length = bs.length / 2
  | [] => rfl
  | [_] => by simp [bytesWords]
  | _ :: _ :: rest => by
    simp only [bytesWords, List.length_cons, bytesWords_length rest]; omega

@[simp] theorem twoWords_length (a b : Word) : (twoWords a b).length = 4 := rfl

@[simp] theorem readResponsePayload_length (ws : List Word) :
    (readResponsePayload ws).length = 1 + 2 * ws.length := by
  simp [readResponsePayload]; omega

@[simp] theorem writeMultiplePayload_length (start : Word) (vs : List Word) :
    (writeMultiplePayload start vs).length = 5 + 2 * vs.length := by
  simp [writeMultiplePayload]; omega

@[simp] theorem withCrc_length (body : List Byte) : (withCrc body).length = body.length + 2 := by
  simp [withCrc]

@[simp] theorem serialize_length (unit fn : Byte) (payload : List Byte) :
    (serialize unit fn payload).length = payload.length + 4 := by
  simp [serialize]

theorem frameEncode_ok {payload : List Byte} (h : payload.length ≤ maxPayload) (unit fn : Byte) :
    frameEncode unit fn payload = .ok (serialize unit fn payload) := by
  simp [frameEncode, Nat.not_lt.mpr h]

theorem frameEncode_too_large {payload : List Byte} (h : maxPayload < payload.length) (unit fn : Byte) :
    frameEncode unit fn payload = .error .payloadTooLarge := by
  simp [frameEncode, h]

/-- Everything `decode` can answer when it succeeds (R103): the length, the fields, and the CRC it compared. -/
theorem frameDecode_ok {raw : List Byte} {f : Frame} (h : frameDecode raw = .ok f) :
    4 ≤ raw.length ∧ raw.length ≤ frameMax ∧
      f = { unit := raw.getD 0 0, fn := raw.getD 1 0, payload := (raw.drop 2).take (raw.length - 4),
            crc := crc16 (raw.take (raw.length - 2)) } ∧
      raw.getD (raw.length - 2) 0 = lo8 f.crc ∧ raw.getD (raw.length - 1) 0 = hi8 f.crc := by
  unfold frameDecode at h
  dsimp only at h
  split at h
  · cases h
  split at h
  · cases h
  split at h
  · cases h
  · rename_i h1 h2 h3
    cases h
    simp only [ne_eq, not_or, Decidable.not_not] at h3
    exact ⟨by omega, by omega, rfl, h3⟩

/-- The framing errors are the only ones `decode` gives (R103, R111). -/
theorem frameDecode_error {raw : List Byte} {e : CoreError} (h : frameDecode raw = .error e) :
    e = .frameTooShort ∨ e = .frameTooLong ∨ e = .crcMismatch := by
  unfold frameDecode at h
  dsimp only at h
  split at h
  · cases h; simp
  split at h
  · cases h; simp
  split at h
  · cases h; simp
  · cases h

end Sys2Proof.Machine
end

