-- ==== Sys2Proof/Laws/Decode.lean ====
section
/-! SUPPORT. Everything each of the decoder's parts can answer. -/

namespace Sys2Proof

open Sys2Proof.Machine

/-- Two words: exactly four payload bytes, or a bad PDU (R63, R66). -/
theorem decodeTwoWords_cases (f : Frame) (k : Word → Word → Instr) :
    (∃ a b c d, f.payload = [a, b, c, d] ∧ decodeTwoWords f k = .ok (k (mk16 a b) (mk16 c d))) ∨
    (f.payload.length ≠ 4 ∧ decodeTwoWords f k = .error (.badPdu f.unit f.fn)) := by
  unfold decodeTwoWords
  split
  · exact Or.inl ⟨_, _, _, _, ‹_›, rfl⟩
  · refine Or.inr ⟨?_, rfl⟩
    rename_i h
    intro hl
    match hp : f.payload, hl with
    | [a, b, c, d], _ => exact h a b c d hp

/-- An exception frame: exactly one payload byte, or a bad PDU (R67). -/
theorem decodeException_cases (f : Frame) :
    (∃ code, f.payload = [code] ∧ decodeException f = .ok (.exc f.unit (requestFn f.fn) code)) ∨
    (f.payload.length ≠ 1 ∧ decodeException f = .error (.badPdu f.unit f.fn)) := by
  unfold decodeException
  split
  · exact Or.inl ⟨_, ‹_›, rfl⟩
  · refine Or.inr ⟨?_, rfl⟩
    rename_i h
    intro hl
    match hp : f.payload, hl with
    | [a], _ => exact h a hp

/-- A write-multiple request with its counts in agreement, or a bad PDU (R65, R69, R168). -/
theorem decodeWriteMultiple_cases (f : Frame) :
    (∃ sh sl ch cl bc rest, f.payload = sh :: sl :: ch :: cl :: bc :: rest ∧ rest.length = bc.toNat ∧
      bc.toNat = 2 * (mk16 ch cl).toNat ∧
      decodeWriteMultiple f = .ok (.wmr f.unit (mk16 sh sl) (bytesWords rest))) ∨
    ((f.payload.length < 5 ∨ f.payload.length ≠ 5 + (byteAt f.payload 4).toNat ∨
        (byteAt f.payload 4).toNat ≠ 2 * (wordAt f.payload 2).toNat) ∧
      decodeWriteMultiple f = .error (.badPdu f.unit f.fn)) := by
  unfold decodeWriteMultiple
  split
  · rename_i sh sl ch cl bc rest hp
    split
    · rename_i h
      exact Or.inl ⟨sh, sl, ch, cl, bc, rest, hp, h.1, h.2, rfl⟩
    · rename_i h
      refine Or.inr ⟨?_, rfl⟩
      rw [hp]
      simp [byteAt, wordAt]
      by_contra hc
      apply h
      omega
  · rename_i h
    refine Or.inr ⟨Or.inl ?_, rfl⟩
    by_contra hl
    match hp : f.payload, hl with
    | a :: b :: c :: d :: e :: r, _ => exact h a b c d e r hp
    | [], hl => simp at hl
    | [_], hl => simp at hl
    | [_, _], hl => simp at hl
    | [_, _, _], hl => simp at hl
    | [_, _, _, _], hl => simp at hl

/-- A request that does not decode is a bad PDU or an unsupported function of the frame's unit. -/
theorem decodeRequest_error {f : Frame} {e : DecodeError} (h : decodeRequest f = .error e) :
    e = .badPdu f.unit f.fn ∨ e = .unsupportedFunction f.unit f.fn := by
  unfold decodeRequest at h
  split at h
  · rcases decodeException_cases f with ⟨a, _, h'⟩ | ⟨_, h'⟩ <;> rw [h'] at h <;> cases h
    simp
  split at h
  · rcases decodeTwoWords_cases f (.rhr f.unit) with ⟨_, _, _, _, _, h'⟩ | ⟨_, h'⟩ <;> rw [h'] at h <;> cases h
    simp
  split at h
  · rcases decodeTwoWords_cases f (.wsr f.unit) with ⟨_, _, _, _, _, h'⟩ | ⟨_, h'⟩ <;> rw [h'] at h <;> cases h
    simp
  split at h
  · rcases decodeWriteMultiple_cases f with ⟨_, _, _, _, _, _, _, _, _, h'⟩ | ⟨_, h'⟩ <;> rw [h'] at h <;> cases h
    simp
  · cases h
    simp

theorem decodeException_frameUnit {f : Frame} {i : Instr} (h : decodeException f = .ok i) :
    frameUnit i = some f.unit := by
  rcases decodeException_cases f with ⟨a, _, h'⟩ | ⟨_, h'⟩ <;> rw [h'] at h <;> cases h
  rfl

theorem decodeTwoWords_ok {f : Frame} {k : Word → Word → Instr} {i : Instr} (h : decodeTwoWords f k = .ok i) :
    ∃ a b, i = k a b := by
  rcases decodeTwoWords_cases f k with ⟨_, _, _, _, _, h'⟩ | ⟨_, h'⟩ <;> rw [h'] at h <;> cases h
  exact ⟨_, _, rfl⟩

/-- A request that decodes is a wire frame to the frame's unit. -/
theorem decodeRequest_frameUnit {f : Frame} {i : Instr} (h : decodeRequest f = .ok i) : frameUnit i = some f.unit := by
  unfold decodeRequest at h
  split at h
  · exact decodeException_frameUnit h
  split at h
  · obtain ⟨a, b, rfl⟩ := decodeTwoWords_ok h
    rfl
  split at h
  · obtain ⟨a, b, rfl⟩ := decodeTwoWords_ok h
    rfl
  split at h
  · rcases decodeWriteMultiple_cases f with ⟨_, _, _, _, _, _, _, _, _, h'⟩ | ⟨_, h'⟩ <;> rw [h'] at h <;> cases h
    rfl
  · cases h

/-- A response that decodes is a wire frame from the frame's unit. -/
theorem decodeResponse_frameUnit {f : Frame} {i : Instr} (h : decodeResponse f = .ok i) :
    frameUnit i = some f.unit := by
  unfold decodeResponse at h
  split at h
  · exact decodeException_frameUnit h
  split at h
  · unfold decodeReadResponse at h
    split at h
    · split at h <;> cases h
      rfl
    · cases h
  split at h
  · obtain ⟨a, b, rfl⟩ := decodeTwoWords_ok h
    rfl
  split at h
  · obtain ⟨a, b, rfl⟩ := decodeTwoWords_ok h
    rfl
  · cases h

/-- A command that decodes has the OPSEL of its row, and is no wire frame (R80). -/
theorem decodeCommand_opsel {p : HostPort} {i : Instr} (h : decodeCommand p = .ok i) :
    frameUnit i = none ∧ (i = .crcInit → p.opsel = 0x01) ∧ (∀ b, i = .crcUpd b → p.opsel = 0x02) ∧
      (i = .crcRead → p.opsel = 0x03) ∧ (∀ u a n x, i = .rqSendRead u a n x → p.opsel = 0x10) ∧
      (∀ u a d x, i = .rqReadMeas u a d x → p.opsel = 0x12) := by
  have branch : ∀ {c : Prop} [Decidable c] {a b x : Except DecodeError Instr},
      (if c then a else b) = x → (c ∧ a = x) ∨ b = x := by
    intro c _ a b x h
    split at h
    · exact Or.inl ⟨‹_›, h⟩
    · exact Or.inr h
  unfold decodeCommand at h
  repeat (rcases branch h with ⟨h', h⟩ | h; · (cases h; simp [h', frameUnit]))
  cases h

end Sys2Proof
end

