-- ==== Sys2Proof/Laws/Memory.lean ====
section
/-! SUPPORT. Laws of the register file: reading after writing, and that every operation keeps its addresses and its
canonical form. -/

namespace Sys2Proof.Machine

namespace Memory

@[simp] theorem read_nil (a : Nat) : read [] a = none := rfl

theorem read_cons (b : Nat) (w : Word) (m : Memory) (a : Nat) :
    read ((b, w) :: m) a = if b = a then some w else read m a := rfl

/-- An address has a word exactly when it is listed. -/
theorem read_isSome (m : Memory) (a : Nat) : (read m a).isSome = true ↔ a ∈ m.map Prod.fst := by
  induction m with
  | nil => simp
  | cons c m ih =>
    obtain ⟨b, w⟩ := c
    rw [read_cons]
    by_cases h : b = a
    · simp [h]
    · simp only [h, if_false, ih, List.map_cons, List.mem_cons]
      constructor
      · exact Or.inr
      · rintro (h' | h')
        · exact absurd h'.symm h
        · exact h'

@[simp] theorem write_addresses (m : Memory) (a : Nat) (v : Word) :
    (write m a v).map Prod.fst = m.map Prod.fst := by
  simp only [write, List.map_map]
  apply List.map_congr_left
  intro c _
  by_cases h : c.1 = a <;> simp [h]

theorem read_write_other (m : Memory) {a b : Nat} (h : b ≠ a) (v : Word) : read (write m a v) b = read m b := by
  induction m with
  | nil => rfl
  | cons c m ih =>
    obtain ⟨x, w⟩ := c
    simp only [write, List.map_cons] at ih ⊢
    by_cases hx : x = a
    · subst hx
      simp only [if_true, read_cons, Ne.symm h, if_false]
      exact ih
    · simp only [hx, if_false, read_cons]
      rw [ih]

theorem read_write_same (m : Memory) (a : Nat) (v : Word) :
    read (write m a v) a = if (read m a).isSome then some v else none := by
  induction m with
  | nil => rfl
  | cons c m ih =>
    obtain ⟨x, w⟩ := c
    simp only [write, List.map_cons] at ih ⊢
    by_cases hx : x = a
    · simp [hx, read_cons]
    · simp only [hx, if_false, read_cons]
      exact ih

theorem write_wf (m : Memory) (a : Nat) (v : Word) : wf (write m a v) = wf m := by
  simp only [wf, write_addresses]

@[simp] theorem writeMany_addresses (vs : List Word) (m : Memory) (start : Nat) :
    (writeMany m start vs).map Prod.fst = m.map Prod.fst := by
  induction vs generalizing m start with
  | nil => rfl
  | cons v vs ih => simp [writeMany, ih]

theorem writeMany_wf (vs : List Word) (m : Memory) (start : Nat) : wf (writeMany m start vs) = wf m := by
  simp only [wf, writeMany_addresses]

/-- A range write leaves every other address alone. -/
theorem read_writeMany_outside (vs : List Word) (m : Memory) (start a : Nat)
    (h : a < start ∨ start + vs.length ≤ a) : read (writeMany m start vs) a = read m a := by
  induction vs generalizing m start with
  | nil => rfl
  | cons v vs ih =>
    simp only [writeMany, List.length_cons] at h ⊢
    rw [ih _ _ (by omega), read_write_other m (by omega)]

/-- A range write puts value `i` at the listed address `start + i` (R124). -/
theorem read_writeMany_inside (vs : List Word) (m : Memory) (start i : Nat) (hi : i < vs.length)
    (hm : (read m (start + i)).isSome) : read (writeMany m start vs) (start + i) = some vs[i] := by
  induction vs generalizing m start i with
  | nil => simp at hi
  | cons v vs ih =>
    simp only [writeMany]
    cases i with
    | zero =>
      rw [read_writeMany_outside _ _ _ _ (by omega), Nat.add_zero, read_write_same]
      simp at hm
      simp [hm]
    | succ i =>
      have hi' : i < vs.length := by simpa using hi
      have key : start + (i + 1) = (start + 1) + i := by omega
      rw [key] at hm ⊢
      rw [ih _ _ _ hi' (by rw [read_write_other m (by omega)]; exact hm)]
      simp

/-- The words a range read gives, when every address of the range is listed. -/
theorem readMany_of_isSome (m : Memory) (n start : Nat) (h : ∀ i < n, (read m (start + i)).isSome) :
    readMany m start n = some ((List.range n).map (fun i => (read m (start + i)).getD 0)) := by
  induction n generalizing start with
  | zero => rfl
  | succ n ih =>
    have h0 := h 0 (by omega)
    rw [Nat.add_zero] at h0
    obtain ⟨w, hw⟩ := Option.isSome_iff_exists.mp h0
    have hrest := ih (start + 1) (fun i hi => by
      have := h (i + 1) (by omega)
      rwa [show start + (i + 1) = start + 1 + i by omega] at this)
    simp only [readMany, hw, hrest, List.range_succ_eq_map, List.map_cons, List.map_map, Nat.add_zero, Option.getD_some]
    congr 2
    apply List.map_congr_left
    intro i _
    simp [show start + 1 + i = start + (i + 1) by omega]

theorem readMany_length {m : Memory} {n start : Nat} {ws : List Word} (h : readMany m start n = some ws) :
    ws.length = n := by
  induction n generalizing start ws with
  | zero => simp only [readMany, Option.some.injEq] at h; simp [← h]
  | succ n ih =>
    simp only [readMany] at h
    split at h
    · rename_i w ws' _ hws
      cases h
      simp [ih hws]
    · cases h

end Memory

/-! ### MAPPED -/

theorem validRange_iff (c : Config) (start count : Nat) :
    validRange c start count = true ↔
      (count ≠ 0 ∧ count ≤ 125 ∧ start + count - 1 ≤ 65535) ∧ ∀ i < count, mapped c (start + i) = true := by
  simp [validRange]

theorem mem_mappedAddresses {c : Config} {a : Nat} (h : mapped c a = true) : a ∈ mappedAddresses c := by
  unfold mapped at h
  unfold mappedAddresses
  cases hl : c.layout
  · simp only [hl, decide_eq_true_eq] at h ⊢
    rw [List.mem_range'_1]
    omega
  · simp only [hl, List.any_eq_true, decide_eq_true_eq] at h ⊢
    obtain ⟨x, hx, rfl⟩ := h
    exact List.mem_map_of_mem hx

/-- In a seeded register file an address has a word exactly when it is mapped (R12, R22). -/
theorem seeded_isSome {c : Config} {m : Memory} (hr : c.role = .responder) (h : seededBy c m = true) (a : Nat) :
    (m.read a).isSome = mapped c a := by
  simp only [seededBy, hr, Bool.and_eq_true, List.all_eq_true] at h
  obtain ⟨⟨-, hin⟩, hall⟩ := h
  rw [Bool.eq_iff_iff]
  constructor
  · intro hs
    rw [Memory.read_isSome] at hs
    obtain ⟨cell, hc, rfl⟩ := List.mem_map.mp hs
    exact hin cell hc
  · intro hm
    exact hall a (mem_mappedAddresses hm)

/-- The configuration and the addresses are all that makes a register file seeded. -/
theorem seededBy_congr {c : Config} {m m' : Memory} (h : m'.map Prod.fst = m.map Prod.fst) :
    seededBy c m' = seededBy c m := by
  unfold seededBy
  cases c.role
  · have hall : ∀ n : Memory, n.all (fun cell => mapped c cell.1) = (n.map Prod.fst).all (mapped c) := by
      intro n; rw [List.all_map]; rfl
    have hread : ∀ a, (m'.read a).isSome = (m.read a).isSome := by
      intro a; rw [Bool.eq_iff_iff, Memory.read_isSome, Memory.read_isSome, h]
    simp only [Memory.wf, h, hall, hread]
  · have := congrArg List.isEmpty h
    simpa using this

namespace State

/-- A range read of a seeded register file (R123): the words of the range, or IllegalDataAddress. -/
theorem readRegs_seeded {s : State} (hr : s.cfg.role = .responder) (h : seededBy s.cfg s.hr = true) (start count : Nat) :
    s.readRegs start count =
      if validRange s.cfg start count then .ok ((List.range count).map (fun i => (s.hr.read (start + i)).getD 0))
      else .error .illegalDataAddress := by
  unfold readRegs
  split
  · rename_i hv
    rw [Memory.readMany_of_isSome]
    intro i hi
    rw [seeded_isSome hr h]
    exact ((validRange_iff _ _ _).mp hv).2 i hi
  · rfl

theorem readRegs_ok_length {s : State} {start count : Nat} {ws : List Word} (h : s.readRegs start count = .ok ws) :
    ws.length = count ∧ count ≤ 125 := by
  unfold readRegs at h
  split at h
  · rename_i hv
    split at h
    · rename_i ws' hws
      cases h
      exact ⟨Memory.readMany_length hws, ((validRange_iff _ _ _).mp hv).1.2.1⟩
    · cases h
  · cases h

/-- Everything a range read can answer besides words. -/
theorem readRegs_error {s : State} {start count : Nat} {e : CoreError} (h : s.readRegs start count = .error e) :
    e = .illegalDataAddress := by
  unfold readRegs at h
  split at h
  · split at h
    · cases h
    · cases h; rfl
  · cases h; rfl

/-- Everything a range write can answer (R124). -/
theorem writeRegs_cases (s : State) (start : Nat) (vs : List Word) :
    (validRange s.cfg start vs.length = true ∧ s.writeRegs start vs = .ok (s.hr.writeMany start vs)) ∨
    (validRange s.cfg start vs.length = false ∧ s.writeRegs start vs = .error .illegalDataAddress) := by
  unfold writeRegs
  cases h : validRange s.cfg start vs.length <;> simp

/-- The register file of the reset state is in canonical form. -/
theorem reset_hr_wf : State.reset.hr.wf = true := by decide +kernel

end State

end Sys2Proof.Machine
end

