-- ==== Sys2Proof/Laws/State.lean ====
section
/-! SUPPORT. What each shared update of State leaves in each field, one lemma a field, so that no later proof unfolds
an update. -/

namespace Sys2Proof.Machine

namespace State


/-! ### put and deliver -/

@[simp] theorem put_cfg (o : Output) (s : State) : (s.put o).cfg = s.cfg := rfl
@[simp] theorem put_hr (o : Output) (s : State) : (s.put o).hr = s.hr := rfl
@[simp] theorem put_rstate (o : Output) (s : State) : (s.put o).rstate = s.rstate := rfl
@[simp] theorem put_qstate (o : Output) (s : State) : (s.put o).qstate = s.qstate := rfl
@[simp] theorem put_rxbuf (o : Output) (s : State) : (s.put o).rxbuf = s.rxbuf := rfl
@[simp] theorem put_rxlen (o : Output) (s : State) : (s.put o).rxlen = s.rxlen := rfl
@[simp] theorem put_rxovf (o : Output) (s : State) : (s.put o).rxovf = s.rxovf := rfl
@[simp] theorem put_gaperr (o : Output) (s : State) : (s.put o).gaperr = s.gaperr := rfl
@[simp] theorem put_inflight (o : Output) (s : State) : (s.put o).inflight = s.inflight := rfl
@[simp] theorem put_expired (o : Output) (s : State) : (s.put o).expired = s.expired := rfl
@[simp] theorem put_pendingMeas (o : Output) (s : State) : (s.put o).pendingMeas = s.pendingMeas := rfl
@[simp] theorem put_crcAcc (o : Output) (s : State) : (s.put o).crcAcc = s.crcAcc := rfl
@[simp] theorem put_inputs (o : Output) (s : State) : (s.put o).inputs = s.inputs := rfl
@[simp] theorem put_outputs (o : Output) (s : State) : (s.put o).outputs = s.outputs ++ [o] := rfl
@[simp] theorem deliver_cfg (r : Except CoreError HostValue) (s : State) : (s.deliver r).cfg = s.cfg := rfl
@[simp] theorem deliver_hr (r : Except CoreError HostValue) (s : State) : (s.deliver r).hr = s.hr := rfl
@[simp] theorem deliver_rstate (r : Except CoreError HostValue) (s : State) : (s.deliver r).rstate = s.rstate := rfl
@[simp] theorem deliver_qstate (r : Except CoreError HostValue) (s : State) : (s.deliver r).qstate = s.qstate := rfl
@[simp] theorem deliver_rxbuf (r : Except CoreError HostValue) (s : State) : (s.deliver r).rxbuf = s.rxbuf := rfl
@[simp] theorem deliver_rxlen (r : Except CoreError HostValue) (s : State) : (s.deliver r).rxlen = s.rxlen := rfl
@[simp] theorem deliver_rxovf (r : Except CoreError HostValue) (s : State) : (s.deliver r).rxovf = s.rxovf := rfl
@[simp] theorem deliver_gaperr (r : Except CoreError HostValue) (s : State) : (s.deliver r).gaperr = s.gaperr := rfl
@[simp] theorem deliver_inflight (r : Except CoreError HostValue) (s : State) : (s.deliver r).inflight = s.inflight := rfl
@[simp] theorem deliver_expired (r : Except CoreError HostValue) (s : State) : (s.deliver r).expired = s.expired := rfl
@[simp] theorem deliver_pendingMeas (r : Except CoreError HostValue) (s : State) : (s.deliver r).pendingMeas = s.pendingMeas := rfl
@[simp] theorem deliver_crcAcc (r : Except CoreError HostValue) (s : State) : (s.deliver r).crcAcc = s.crcAcc := rfl
@[simp] theorem deliver_inputs (r : Except CoreError HostValue) (s : State) : (s.deliver r).inputs = s.inputs := rfl
@[simp] theorem deliver_outputs (r : Except CoreError HostValue) (s : State) : (s.deliver r).outputs = s.outputs ++ [.result r] := rfl

/-! ### rxClear -/

@[simp] theorem rxClear_cfg (s : State) : (s.rxClear).cfg = s.cfg := rfl
@[simp] theorem rxClear_hr (s : State) : (s.rxClear).hr = s.hr := rfl
@[simp] theorem rxClear_rstate (s : State) : (s.rxClear).rstate = s.rstate := rfl
@[simp] theorem rxClear_qstate (s : State) : (s.rxClear).qstate = s.qstate := rfl
@[simp] theorem rxClear_rxbuf (s : State) : (s.rxClear).rxbuf = s.rxbuf := rfl
@[simp] theorem rxClear_rxlen (s : State) : (s.rxClear).rxlen = 0 := rfl
@[simp] theorem rxClear_rxovf (s : State) : (s.rxClear).rxovf = false := rfl
@[simp] theorem rxClear_gaperr (s : State) : (s.rxClear).gaperr = false := rfl
@[simp] theorem rxClear_inflight (s : State) : (s.rxClear).inflight = s.inflight := rfl
@[simp] theorem rxClear_expired (s : State) : (s.rxClear).expired = s.expired := rfl
@[simp] theorem rxClear_pendingMeas (s : State) : (s.rxClear).pendingMeas = s.pendingMeas := rfl
@[simp] theorem rxClear_crcAcc (s : State) : (s.rxClear).crcAcc = s.crcAcc := rfl
@[simp] theorem rxClear_inputs (s : State) : (s.rxClear).inputs = s.inputs := rfl
@[simp] theorem rxClear_outputs (s : State) : (s.rxClear).outputs = s.outputs := rfl

/-! ### rxPush and rxGap15 -/

@[simp] theorem rxPush_cfg (b : Byte) (s : State) : (s.rxPush b).cfg = s.cfg := by
  unfold rxPush; split
  · rfl
  · split <;> rfl
@[simp] theorem rxPush_hr (b : Byte) (s : State) : (s.rxPush b).hr = s.hr := by
  unfold rxPush; split
  · rfl
  · split <;> rfl
@[simp] theorem rxPush_rstate (b : Byte) (s : State) : (s.rxPush b).rstate = s.rstate := by
  unfold rxPush; split
  · rfl
  · split <;> rfl
@[simp] theorem rxPush_qstate (b : Byte) (s : State) : (s.rxPush b).qstate = s.qstate := by
  unfold rxPush; split
  · rfl
  · split <;> rfl
@[simp] theorem rxPush_gaperr (b : Byte) (s : State) : (s.rxPush b).gaperr = s.gaperr := by
  unfold rxPush; split
  · rfl
  · split <;> rfl
@[simp] theorem rxPush_inflight (b : Byte) (s : State) : (s.rxPush b).inflight = s.inflight := by
  unfold rxPush; split
  · rfl
  · split <;> rfl
@[simp] theorem rxPush_expired (b : Byte) (s : State) : (s.rxPush b).expired = s.expired := by
  unfold rxPush; split
  · rfl
  · split <;> rfl
@[simp] theorem rxPush_pendingMeas (b : Byte) (s : State) : (s.rxPush b).pendingMeas = s.pendingMeas := by
  unfold rxPush; split
  · rfl
  · split <;> rfl
@[simp] theorem rxPush_crcAcc (b : Byte) (s : State) : (s.rxPush b).crcAcc = s.crcAcc := by
  unfold rxPush; split
  · rfl
  · split <;> rfl
@[simp] theorem rxPush_inputs (b : Byte) (s : State) : (s.rxPush b).inputs = s.inputs := by
  unfold rxPush; split
  · rfl
  · split <;> rfl
@[simp] theorem rxPush_outputs (b : Byte) (s : State) : (s.rxPush b).outputs = s.outputs := by
  unfold rxPush; split
  · rfl
  · split <;> rfl
@[simp] theorem rxGap15_cfg (s : State) : (s.rxGap15).cfg = s.cfg := by
  unfold rxGap15; split <;> rfl
@[simp] theorem rxGap15_hr (s : State) : (s.rxGap15).hr = s.hr := by
  unfold rxGap15; split <;> rfl
@[simp] theorem rxGap15_rstate (s : State) : (s.rxGap15).rstate = s.rstate := by
  unfold rxGap15; split <;> rfl
@[simp] theorem rxGap15_qstate (s : State) : (s.rxGap15).qstate = s.qstate := by
  unfold rxGap15; split <;> rfl
@[simp] theorem rxGap15_rxbuf (s : State) : (s.rxGap15).rxbuf = s.rxbuf := by
  unfold rxGap15; split <;> rfl
@[simp] theorem rxGap15_rxlen (s : State) : (s.rxGap15).rxlen = s.rxlen := by
  unfold rxGap15; split <;> rfl
@[simp] theorem rxGap15_rxovf (s : State) : (s.rxGap15).rxovf = s.rxovf := by
  unfold rxGap15; split <;> rfl
@[simp] theorem rxGap15_gaperr (s : State) : (s.rxGap15).gaperr = (s.gaperr || decide (0 < s.rxlen)) := by
  unfold rxGap15; split <;> simp [*]
@[simp] theorem rxGap15_inflight (s : State) : (s.rxGap15).inflight = s.inflight := by
  unfold rxGap15; split <;> rfl
@[simp] theorem rxGap15_expired (s : State) : (s.rxGap15).expired = s.expired := by
  unfold rxGap15; split <;> rfl
@[simp] theorem rxGap15_pendingMeas (s : State) : (s.rxGap15).pendingMeas = s.pendingMeas := by
  unfold rxGap15; split <;> rfl
@[simp] theorem rxGap15_crcAcc (s : State) : (s.rxGap15).crcAcc = s.crcAcc := by
  unfold rxGap15; split <;> rfl
@[simp] theorem rxGap15_inputs (s : State) : (s.rxGap15).inputs = s.inputs := by
  unfold rxGap15; split <;> rfl
@[simp] theorem rxGap15_outputs (s : State) : (s.rxGap15).outputs = s.outputs := by
  unfold rxGap15; split <;> rfl

/-! ### emitFrame and respondException -/

@[simp] theorem emitFrame_cfg (unit fn : Byte) (payload : List Byte) (s : State) : (s.emitFrame unit fn payload).cfg = s.cfg := by
  unfold emitFrame; split <;> rfl
@[simp] theorem emitFrame_hr (unit fn : Byte) (payload : List Byte) (s : State) : (s.emitFrame unit fn payload).hr = s.hr := by
  unfold emitFrame; split <;> rfl
@[simp] theorem emitFrame_rstate (unit fn : Byte) (payload : List Byte) (s : State) : (s.emitFrame unit fn payload).rstate = s.rstate := by
  unfold emitFrame; split <;> rfl
@[simp] theorem emitFrame_qstate (unit fn : Byte) (payload : List Byte) (s : State) : (s.emitFrame unit fn payload).qstate = s.qstate := by
  unfold emitFrame; split <;> rfl
@[simp] theorem emitFrame_rxbuf (unit fn : Byte) (payload : List Byte) (s : State) : (s.emitFrame unit fn payload).rxbuf = s.rxbuf := by
  unfold emitFrame; split <;> rfl
@[simp] theorem emitFrame_rxlen (unit fn : Byte) (payload : List Byte) (s : State) : (s.emitFrame unit fn payload).rxlen = s.rxlen := by
  unfold emitFrame; split <;> rfl
@[simp] theorem emitFrame_rxovf (unit fn : Byte) (payload : List Byte) (s : State) : (s.emitFrame unit fn payload).rxovf = s.rxovf := by
  unfold emitFrame; split <;> rfl
@[simp] theorem emitFrame_gaperr (unit fn : Byte) (payload : List Byte) (s : State) : (s.emitFrame unit fn payload).gaperr = s.gaperr := by
  unfold emitFrame; split <;> rfl
@[simp] theorem emitFrame_inflight (unit fn : Byte) (payload : List Byte) (s : State) : (s.emitFrame unit fn payload).inflight = s.inflight := by
  unfold emitFrame; split <;> rfl
@[simp] theorem emitFrame_expired (unit fn : Byte) (payload : List Byte) (s : State) : (s.emitFrame unit fn payload).expired = s.expired := by
  unfold emitFrame; split <;> rfl
@[simp] theorem emitFrame_pendingMeas (unit fn : Byte) (payload : List Byte) (s : State) : (s.emitFrame unit fn payload).pendingMeas = s.pendingMeas := by
  unfold emitFrame; split <;> rfl
@[simp] theorem emitFrame_crcAcc (unit fn : Byte) (payload : List Byte) (s : State) : (s.emitFrame unit fn payload).crcAcc = s.crcAcc := by
  unfold emitFrame; split <;> rfl
@[simp] theorem emitFrame_inputs (unit fn : Byte) (payload : List Byte) (s : State) : (s.emitFrame unit fn payload).inputs = s.inputs := by
  unfold emitFrame; split <;> rfl

/-- A payload that fits is emitted as one whole frame (R100, R112). -/
theorem emitFrame_outputs {payload : List Byte} (h : payload.length ≤ maxPayload) (unit fn : Byte) (s : State) :
    (s.emitFrame unit fn payload).outputs = s.outputs ++ [.emit (serialize unit fn payload)] := by
  have h' : ¬ maxPayload < payload.length := by omega
  simp [emitFrame, frameEncode, h']

/-- A payload that fits is put out as one whole frame and nothing else changes (R112). -/
theorem emitFrame_eq {payload : List Byte} (h : payload.length ≤ maxPayload) (unit fn : Byte) (s : State) :
    s.emitFrame unit fn payload = s.put (.emit (serialize unit fn payload)) := by
  have h' : ¬ maxPayload < payload.length := by omega
  simp [emitFrame, frameEncode, h']

/-- An exception response is one five-byte frame and nothing else changes (R67, R170). -/
theorem respondException_eq (unit fn code : Byte) (s : State) :
    s.respondException unit fn code = s.put (.emit (serialize unit (fn ||| 0x80) [code])) :=
  emitFrame_eq (by simp [maxPayload]) _ _ _


/-! ### complete and discardWindow -/

@[simp] theorem complete_cfg (r : Except CoreError (List Word)) (s : State) : (s.complete r).cfg = s.cfg := rfl
@[simp] theorem complete_hr (r : Except CoreError (List Word)) (s : State) : (s.complete r).hr = s.hr := rfl
@[simp] theorem complete_rstate (r : Except CoreError (List Word)) (s : State) : (s.complete r).rstate = s.rstate := rfl
@[simp] theorem complete_qstate (r : Except CoreError (List Word)) (s : State) : (s.complete r).qstate = .idle := rfl
@[simp] theorem complete_rxbuf (r : Except CoreError (List Word)) (s : State) : (s.complete r).rxbuf = s.rxbuf := rfl
@[simp] theorem complete_rxlen (r : Except CoreError (List Word)) (s : State) : (s.complete r).rxlen = 0 := rfl
@[simp] theorem complete_rxovf (r : Except CoreError (List Word)) (s : State) : (s.complete r).rxovf = false := rfl
@[simp] theorem complete_gaperr (r : Except CoreError (List Word)) (s : State) : (s.complete r).gaperr = false := rfl
@[simp] theorem complete_inflight (r : Except CoreError (List Word)) (s : State) : (s.complete r).inflight = s.inflight := rfl
@[simp] theorem complete_expired (r : Except CoreError (List Word)) (s : State) : (s.complete r).expired = false := rfl
@[simp] theorem complete_pendingMeas (r : Except CoreError (List Word)) (s : State) : (s.complete r).pendingMeas = none := rfl
@[simp] theorem complete_crcAcc (r : Except CoreError (List Word)) (s : State) : (s.complete r).crcAcc = s.crcAcc := rfl
@[simp] theorem complete_inputs (r : Except CoreError (List Word)) (s : State) : (s.complete r).inputs = s.inputs := rfl
@[simp] theorem complete_outputs (r : Except CoreError (List Word)) (s : State) : (s.complete r).outputs = s.outputs ++ [.completion (s.pendingResult r), .disarmTimer] := by simp [complete]
@[simp] theorem discardWindow_cfg (s : State) : (s.discardWindow).cfg = s.cfg := by
  unfold discardWindow; split <;> simp
@[simp] theorem settle_cfg (c : Option (Except CoreError (List Word))) (s : State) : (s.settle c).cfg = s.cfg := by
  unfold settle; split
  · rfl
  · split <;> simp
@[simp] theorem discardWindow_hr (s : State) : (s.discardWindow).hr = s.hr := by
  unfold discardWindow; split <;> simp
@[simp] theorem settle_hr (c : Option (Except CoreError (List Word))) (s : State) : (s.settle c).hr = s.hr := by
  unfold settle; split
  · rfl
  · split <;> simp
@[simp] theorem discardWindow_rstate (s : State) : (s.discardWindow).rstate = s.rstate := by
  unfold discardWindow; split <;> simp
@[simp] theorem settle_rstate (c : Option (Except CoreError (List Word))) (s : State) : (s.settle c).rstate = s.rstate := by
  unfold settle; split
  · rfl
  · split <;> simp
@[simp] theorem discardWindow_rxbuf (s : State) : (s.discardWindow).rxbuf = s.rxbuf := by
  unfold discardWindow; split <;> simp
@[simp] theorem settle_rxbuf (c : Option (Except CoreError (List Word))) (s : State) : (s.settle c).rxbuf = s.rxbuf := by
  unfold settle; split
  · rfl
  · split <;> simp
@[simp] theorem discardWindow_inflight (s : State) : (s.discardWindow).inflight = s.inflight := by
  unfold discardWindow; split <;> simp
@[simp] theorem settle_inflight (c : Option (Except CoreError (List Word))) (s : State) : (s.settle c).inflight = s.inflight := by
  unfold settle; split
  · rfl
  · split <;> simp
@[simp] theorem discardWindow_crcAcc (s : State) : (s.discardWindow).crcAcc = s.crcAcc := by
  unfold discardWindow; split <;> simp
@[simp] theorem settle_crcAcc (c : Option (Except CoreError (List Word))) (s : State) : (s.settle c).crcAcc = s.crcAcc := by
  unfold settle; split
  · rfl
  · split <;> simp
@[simp] theorem discardWindow_inputs (s : State) : (s.discardWindow).inputs = s.inputs := by
  unfold discardWindow; split <;> simp
@[simp] theorem settle_inputs (c : Option (Except CoreError (List Word))) (s : State) : (s.settle c).inputs = s.inputs := by
  unfold settle; split
  · rfl
  · split <;> simp

/-! ### serve -/

/-- Everything the unit filter and the responder's action can leave (R163, R164). -/
theorem serve_other {unit : Byte} (s : State) (h : unit ≠ s.cfg.unit) (action : State → State) :
    s.serve unit action = { s with rstate := .idle } := by
  simp [serve, h]

theorem serve_own (s : State) (action : State → State) :
    s.serve s.cfg.unit action = { action { s with rstate := .dispatched } with rstate := .idle } := by
  simp [serve]

@[simp] theorem serve_rstate (unit : Byte) (action : State → State) (s : State) :
    (s.serve unit action).rstate = .idle := by
  unfold serve; dsimp only; split <;> rfl

theorem inRole_own {role : Role} {s : State} (h : s.cfg.role = role) (k : State → State) : s.inRole role k = k s := by
  simp [inRole, h]

theorem inRole_other {role : Role} {s : State} (h : s.cfg.role ≠ role) (k : State → State) :
    s.inRole role k = s.deliver (.error .refused) := by
  simp [inRole, h]


/-! ### resetWith -/

@[simp] theorem resetWith_cfg (cfg : Config) (seed : Memory) (inputs : List Input) (outputs : List Output) :
    (resetWith cfg seed inputs outputs).cfg = cfg := rfl
@[simp] theorem resetWith_hr (cfg : Config) (seed : Memory) (inputs : List Input) (outputs : List Output) :
    (resetWith cfg seed inputs outputs).hr = seed := rfl
@[simp] theorem resetWith_rstate (cfg : Config) (seed : Memory) (inputs : List Input) (outputs : List Output) :
    (resetWith cfg seed inputs outputs).rstate = .idle := rfl
@[simp] theorem resetWith_qstate (cfg : Config) (seed : Memory) (inputs : List Input) (outputs : List Output) :
    (resetWith cfg seed inputs outputs).qstate = .idle := rfl
@[simp] theorem resetWith_rxlen (cfg : Config) (seed : Memory) (inputs : List Input) (outputs : List Output) :
    (resetWith cfg seed inputs outputs).rxlen = 0 := rfl
@[simp] theorem resetWith_rxovf (cfg : Config) (seed : Memory) (inputs : List Input) (outputs : List Output) :
    (resetWith cfg seed inputs outputs).rxovf = false := rfl
@[simp] theorem resetWith_gaperr (cfg : Config) (seed : Memory) (inputs : List Input) (outputs : List Output) :
    (resetWith cfg seed inputs outputs).gaperr = false := rfl
@[simp] theorem resetWith_expired (cfg : Config) (seed : Memory) (inputs : List Input) (outputs : List Output) :
    (resetWith cfg seed inputs outputs).expired = false := rfl
@[simp] theorem resetWith_pendingMeas (cfg : Config) (seed : Memory) (inputs : List Input) (outputs : List Output) :
    (resetWith cfg seed inputs outputs).pendingMeas = none := rfl
@[simp] theorem resetWith_crcAcc (cfg : Config) (seed : Memory) (inputs : List Input) (outputs : List Output) :
    (resetWith cfg seed inputs outputs).crcAcc = 0xFFFF := rfl
@[simp] theorem resetWith_inputs (cfg : Config) (seed : Memory) (inputs : List Input) (outputs : List Output) :
    (resetWith cfg seed inputs outputs).inputs = inputs := rfl
@[simp] theorem resetWith_outputs (cfg : Config) (seed : Memory) (inputs : List Input) (outputs : List Output) :
    (resetWith cfg seed inputs outputs).outputs = outputs := rfl

end State

end Sys2Proof.Machine
end

