-- ==== Sys2Proof/Laws/Receive.lean ====
section
/-! SUPPORT. Laws of the receive path (R107 to R109). -/

namespace Sys2Proof.Machine

namespace State

/-- Everything `rx_push` can do (R107): nothing after a gap; a full buffer overflows; else the byte is stored. -/
theorem rxPush_cases (b : Byte) (s : State) :
    (s.gaperr = true ∧ s.rxPush b = s) ∨
    (s.gaperr = false ∧ frameMax ≤ s.rxlen ∧ s.rxPush b = { s with rxovf := true }) ∨
    (s.gaperr = false ∧ s.rxlen < frameMax ∧
      s.rxPush b = { s with rxbuf := s.rxbuf.setIfInBounds s.rxlen b, rxlen := s.rxlen + 1 }) := by
  unfold rxPush
  cases hg : s.gaperr
  · by_cases hl : frameMax ≤ s.rxlen
    · simp [hl]
    · simp [hl, Nat.lt_of_not_le hl]
  · simp

/-- A stored byte is the last of the window. -/
theorem window_push (s : State) (b : Byte) (h : s.rxlen < frameMax) :
    ({ s with rxbuf := s.rxbuf.setIfInBounds s.rxlen b, rxlen := s.rxlen + 1 } : State).window = s.window ++ [b] := by
  have hl : s.rxbuf.toList.length = 256 := by simp
  have hf : s.rxlen < s.rxbuf.toList.length := by rw [hl]; exact h
  simp only [window, Vector.toList_setIfInBounds]
  rw [List.take_succ_eq_append_getElem (by simpa using hf)]
  simp [List.take_set_of_le]

theorem window_length (s : State) (h : s.rxlen ≤ frameMax) : s.window.length = s.rxlen := by
  simp only [frameMax] at h
  simp [window]
  omega

/-- A clear receive path keeps the receive invariant. -/
theorem rxClear_rxInv (s : State) : s.rxClear.RxInv := by
  constructor <;> simp

theorem rxPush_rxInv {s : State} (h : s.RxInv) (b : Byte) : (s.rxPush b).RxInv := by
  obtain ⟨hl, ho, hg⟩ := h
  rcases rxPush_cases b s with ⟨_, e⟩ | ⟨hg', hf, e⟩ | ⟨hg', hf, e⟩ <;> rw [e]
  · exact ⟨hl, ho, hg⟩
  · exact ⟨hl, fun _ => by simp only; omega, fun h => by simp [hg'] at h⟩
  · refine ⟨by simp only; omega, fun h => ?_, fun h => by simp [hg'] at h⟩
    have := ho h
    omega

theorem rxGap15_rxInv {s : State} (h : s.RxInv) : s.rxGap15.RxInv := by
  obtain ⟨hl, ho, hg⟩ := h
  refine ⟨by simpa using hl, by simpa using ho, ?_⟩
  simp only [rxGap15_gaperr, rxGap15_rxlen, Bool.or_eq_true, decide_eq_true_eq]
  rintro (h | h)
  · exact hg h
  · exact h

/-- Everything `rx_close` can answer (R109). -/
theorem rxOutcome_cases (s : State) :
    (s.rxlen = 0 ∧ s.rxOutcome = .noWindow) ∨
    (∃ e, s.rxOutcome = .dropped e) ∨
    (0 < s.rxlen ∧ s.gaperr = false ∧ s.rxovf = false ∧ ∃ f, frameDecode s.window = .ok f ∧ s.rxOutcome = .frame f) := by
  unfold rxOutcome
  by_cases h0 : s.rxlen = 0
  · simp [h0]
  cases hg : s.gaperr
  · cases ho : s.rxovf
    · cases hd : frameDecode s.window
      · simp [h0]
      · refine Or.inr (Or.inr ⟨by omega, rfl, rfl, ?_⟩)
        simp [h0]
    · simp [h0]
  · simp [h0]

theorem rxOutcome_frame {s : State} {f : Frame} (h : s.rxOutcome = .frame f) : frameDecode s.window = .ok f := by
  rcases rxOutcome_cases s with ⟨_, e⟩ | ⟨_, e⟩ | ⟨_, _, _, g, hd, e⟩
  · rw [e] at h; cases h
  · rw [e] at h; cases h
  · rw [e] at h; cases h; exact hd

end State

end Sys2Proof.Machine
end

