-- ==== Sys2Proof/Laws/Ops.lean ====
section
/-! SUPPORT. What each shared operation of the two engines can do, said once: later proofs cite these and do not unfold
the operations. -/

namespace Sys2Proof.Machine

namespace State

/-! ### The responder -/

/-- Everything a served read can do (R166): a read response with the words of the range, or exception 0x02. -/
theorem serveRead_cases (start count : Word) (s : State) :
    (∃ ws, s.readRegs start.toNat count.toNat = .ok ws ∧ ws.length = count.toNat ∧ ws.length ≤ 125 ∧
      s.serveRead start count = s.put (.emit (serialize s.cfg.unit fnRead (readResponsePayload ws)))) ∨
    (s.readRegs start.toNat count.toNat = .error .illegalDataAddress ∧
      s.serveRead start count =
        s.put (.emit (serialize s.cfg.unit (fnRead ||| 0x80) [codeIllegalDataAddress]))) := by
  unfold serveRead
  cases h : s.readRegs start.toNat count.toNat with
  | ok ws =>
    obtain ⟨hl, hc⟩ := readRegs_ok_length h
    refine Or.inl ⟨ws, rfl, hl, by omega, ?_⟩
    exact emitFrame_eq (by simp [maxPayload]; omega) _ _ _
  | error e =>
    rw [readRegs_error h]
    exact Or.inr ⟨rfl, respondException_eq _ _ _ _⟩

/-- Everything a served write can do (R167, R168): the range written and the normal response, or exception 0x02 and no
register written. -/
theorem serveWrite_cases (fn : Byte) (start : Word) (vs : List Word) (response : List Byte) (s : State)
    (hr : response.length ≤ maxPayload) :
    (validRange s.cfg start.toNat vs.length = true ∧
      s.serveWrite fn start vs response =
        ({ s with hr := s.hr.writeMany start.toNat vs } : State).put (.emit (serialize s.cfg.unit fn response))) ∨
    (validRange s.cfg start.toNat vs.length = false ∧
      s.serveWrite fn start vs response =
        s.put (.emit (serialize s.cfg.unit (fn ||| 0x80) [codeIllegalDataAddress]))) := by
  unfold serveWrite
  rcases writeRegs_cases s start.toNat vs with ⟨hv, e⟩ | ⟨hv, e⟩ <;> rw [e]
  · exact Or.inl ⟨hv, emitFrame_eq hr _ _ _⟩
  · exact Or.inr ⟨hv, respondException_eq _ _ _ _⟩

/-- Everything a rejected request can do (R169, R171): to the unit itself one exception frame, or nothing. -/
theorem rejectRequest_cases (e : DecodeError) (s : State) :
    (∃ unit fn code, s.rejectRequest e = s.serve unit (respondException unit fn code) ∧
      (code = codeIllegalDataValue ∨ code = codeIllegalFunction)) ∨
    (∃ unit, s.rejectRequest e = s.serve unit (fun s => s)) ∨
    s.rejectRequest e = { s with rstate := .idle } ∨ s.rejectRequest e = s := by
  cases e with
  | badFrame e => exact Or.inr (Or.inr (Or.inl rfl))
  | reservedOpsel n => exact Or.inr (Or.inr (Or.inr rfl))
  | unsupportedFunction unit fn => exact Or.inl ⟨unit, fn, _, rfl, Or.inr rfl⟩
  | badPdu unit fn =>
    cases h : isExceptionFn fn
    · exact Or.inl ⟨unit, fn, _, by simp only [rejectRequest, h]; rfl, Or.inl rfl⟩
    · exact Or.inr (Or.inl ⟨unit, by simp only [rejectRequest, h]; rfl⟩)

/-! ### The requester -/

/-- Everything `discard_window` can do (R189): nothing, or the end of an exchange whose timeout has expired. -/
theorem discardWindow_cases (s : State) :
    (s.expired = false ∧ s.discardWindow = s) ∨
    (s.expired = true ∧ s.discardWindow = s.complete (.error .responseTimeout)) := by
  unfold discardWindow
  cases s.expired <;> simp

/-- Everything a classified window can do (R188, R189). -/
theorem settle_cases (c : Option (Except CoreError (List Word))) (s : State) :
    s.settle c = s ∨ (s.qstate = .awaitingResponse ∧ ∃ r, s.settle c = s.complete r) := by
  unfold settle
  cases hq : s.qstate
  · exact Or.inl rfl
  · cases c with
    | some r => exact Or.inr ⟨rfl, r, rfl⟩
    | none =>
      rcases discardWindow_cases s with ⟨_, e⟩ | ⟨_, e⟩
      · exact Or.inl e
      · exact Or.inr ⟨rfl, _, e⟩

/-- Everything issuing a read can do (R187): Busy, Refused, or the request emitted and the exchange open. -/
theorem startRead_cases (unit : Byte) (start count : Word) (timeout : BitVec 32) (meas : Option Descriptor) (s : State) :
    (s.qstate = .awaitingResponse ∧ s.startRead unit start count timeout meas = s.deliver (.error .busy)) ∨
    (s.qstate = .idle ∧ ¬(unitLegal unit = true ∧ meas.all descriptorLegal = true) ∧
      s.startRead unit start count timeout meas = s.deliver (.error .refused)) ∨
    (s.qstate = .idle ∧ unitLegal unit = true ∧ meas.all descriptorLegal = true ∧
      s.startRead unit start count timeout meas =
        { s.rxClear with
            outputs := s.outputs ++ [.emit (serialize unit fnRead (twoWords start count)), .armTimer timeout],
            inflight := { unit := unit, fn := fnRead, start := start, count := count },
            expired := false, pendingMeas := meas, qstate := .awaitingResponse }) := by
  unfold startRead
  cases hq : s.qstate
  · by_cases hl : unitLegal unit = true ∧ meas.all descriptorLegal = true
    · refine Or.inr (Or.inr ⟨rfl, hl.1, hl.2, ?_⟩)
      rw [emitFrame_eq (by simp [maxPayload])]
      simp [hl.1, hl.2, put]
    · refine Or.inr (Or.inl ⟨rfl, hl, ?_⟩)
      rw [if_neg (by simp), if_pos]
      simp only [Bool.or_eq_true, Bool.not_eq_true']
      cases h1 : unitLegal unit
      · simp
      · cases h2 : meas.all descriptorLegal
        · simp
        · exact absurd ⟨h1, h2⟩ hl
  · exact Or.inl ⟨rfl, by simp⟩

/-- Everything the end of the timeout can do (R192). -/
theorem onTimeout_cases (s : State) :
    (s.qstate = .idle ∧ s.onTimeout = s) ∨
    (s.qstate = .awaitingResponse ∧ s.rxlen = 0 ∧ s.onTimeout = s.complete (.error .responseTimeout)) ∨
    (s.qstate = .awaitingResponse ∧ 0 < s.rxlen ∧ s.onTimeout = { s with expired := true }) := by
  unfold onTimeout
  cases hq : s.qstate
  · simp
  · by_cases h : s.rxlen = 0
    · simp [h]
    · simp [h, Nat.pos_of_ne_zero h]

end State

/-! ### What a step can be -/

/-- A step runs the instruction `fetch` found, or leaves the state `fetch` gives, or refuses a reset. -/
theorem step_cases (s : State) :
    (∃ i t, s.fetch = .run i t ∧ step s = exec i t) ∨
    (∃ t, s.fetch = .done t ∧ step s = .next t) ∨
    (∃ r, s.fetch = .refuse r ∧ step s = .refused r) := by
  unfold step
  cases h : s.fetch
  · exact Or.inl ⟨_, _, rfl, rfl⟩
  · exact Or.inr (Or.inl ⟨_, rfl, rfl⟩)
  · exact Or.inr (Or.inr ⟨_, rfl, rfl⟩)

end Sys2Proof.Machine
end

