-- ==== Sys2Proof/Laws/PerInstr.lean ====
section
/-! SUPPORT. Facts about every instruction, one lemma a constructor. FrameFits: the frame of a well-formed instruction is
4 to 256 bytes long (R60). -/

namespace Sys2Proof.Laws

open Sys2Proof.Machine

/-- A well-formed instruction that is encoded as a frame has a frame of 4 to 256 bytes (R60). -/
def FrameFits.Statement (i : Instr) : Prop :=
  WellFormed i = true → ∀ bytes, encode i = .frame bytes → 4 ≤ bytes.length ∧ bytes.length ≤ 256

theorem FrameFits.rhr (unit : Byte) (start count : Word) : FrameFits.Statement (.rhr unit start count) := by
  intro _ bytes e
  cases e
  simp

theorem FrameFits.rhrR (unit : Byte) (words : List Word) : FrameFits.Statement (.rhrR unit words) := by
  intro h bytes e
  have h : words.length ≤ 125 := of_decide_eq_true h
  cases e
  simp only [serialize_length, readResponsePayload_length]
  omega

theorem FrameFits.wsr (unit : Byte) (addr value : Word) : FrameFits.Statement (.wsr unit addr value) := by
  intro _ bytes e
  cases e
  simp

theorem FrameFits.wsrR (unit : Byte) (addr value : Word) : FrameFits.Statement (.wsrR unit addr value) := by
  intro _ bytes e
  cases e
  simp

theorem FrameFits.wmr (unit : Byte) (start : Word) (values : List Word) : FrameFits.Statement (.wmr unit start values) := by
  intro h bytes e
  have h : values.length ≤ 123 := of_decide_eq_true h
  cases e
  simp only [serialize_length, writeMultiplePayload_length]
  omega

theorem FrameFits.wmrR (unit : Byte) (start count : Word) : FrameFits.Statement (.wmrR unit start count) := by
  intro _ bytes e
  cases e
  simp

theorem FrameFits.exc (unit : Byte) (fn : BitVec 7) (code : Byte) : FrameFits.Statement (.exc unit fn code) := by
  intro _ bytes e
  cases e
  simp

theorem FrameFits.crcInit : FrameFits.Statement (.crcInit) := by
  intro _ bytes e
  cases e

theorem FrameFits.crcUpd (b : Byte) : FrameFits.Statement (.crcUpd b) := by
  intro _ bytes e
  cases e

theorem FrameFits.crcRead : FrameFits.Statement (.crcRead) := by
  intro _ bytes e
  cases e

theorem FrameFits.frmEnc (unit fn : Byte) (payload : List Byte) : FrameFits.Statement (.frmEnc unit fn payload) := by
  intro _ bytes e
  cases e

theorem FrameFits.frmDec (raw : List Byte) : FrameFits.Statement (.frmDec raw) := by
  intro _ bytes e
  cases e

theorem FrameFits.rsRead (start count : Word) : FrameFits.Statement (.rsRead start count) := by
  intro _ bytes e
  cases e

theorem FrameFits.rsWrite (start : Word) (values : List Word) : FrameFits.Statement (.rsWrite start values) := by
  intro _ bytes e
  cases e

theorem FrameFits.encMeas (value : F64) (d : Descriptor) : FrameFits.Statement (.encMeas value d) := by
  intro _ bytes e
  cases e

theorem FrameFits.decMeas (words : List Word) (d : Descriptor) : FrameFits.Statement (.decMeas words d) := by
  intro _ bytes e
  cases e

theorem FrameFits.encScaled (value : F64) (scale : Word) (signed : Bool) : FrameFits.Statement (.encScaled value scale signed) := by
  intro _ bytes e
  cases e

theorem FrameFits.decScaled (word scale : Word) (signed : Bool) : FrameFits.Statement (.decScaled word scale signed) := by
  intro _ bytes e
  cases e

theorem FrameFits.encF32 (value : F64) (byteOrder wordOrder : Order) : FrameFits.Statement (.encF32 value byteOrder wordOrder) := by
  intro _ bytes e
  cases e

theorem FrameFits.decF32 (reg0 reg1 : Word) (byteOrder wordOrder : Order) : FrameFits.Statement (.decF32 reg0 reg1 byteOrder wordOrder) := by
  intro _ bytes e
  cases e

theorem FrameFits.rqSendRead (unit : Byte) (start count : Word) (timeout : BitVec 32) : FrameFits.Statement (.rqSendRead unit start count timeout) := by
  intro _ bytes e
  cases e

theorem FrameFits.rqCancel : FrameFits.Statement (.rqCancel) := by
  intro _ bytes e
  cases e

theorem FrameFits.rqReadMeas (unit : Byte) (addr : Word) (d : Descriptor) (timeout : BitVec 32) : FrameFits.Statement (.rqReadMeas unit addr d timeout) := by
  intro _ bytes e
  cases e

end Sys2Proof.Laws
end

