-- ==== Sys2Proof/Laws/Step.lean ====
section
/-! SUPPORT. What an instruction and a step can do, said once. -/

namespace Sys2Proof.Machine

open State

namespace State

/-- Everything the unit filter can do (R163, R164). -/
theorem serve_cases (unit : Byte) (action : State → State) (s : State) :
    (unit ≠ s.cfg.unit ∧ s.serve unit action = { s with rstate := .idle }) ∨
    (unit = s.cfg.unit ∧ s.serve unit action = { action { s with rstate := .dispatched } with rstate := .idle }) := by
  by_cases h : unit = s.cfg.unit
  · exact Or.inr ⟨h, by simp [serve, h]⟩
  · exact Or.inl ⟨h, by simp [serve, h]⟩

/-- Everything a Gap35 at a Responder can find to do (R163). -/
theorem responderGap35_cases (s : State) :
    (s.rxlen = 0 ∧ s.responderGap35 = .done s.rxClear) ∨
    (∃ e, s.rxOutcome = .dropped e ∧ s.responderGap35 = .done { s.rxClear with rstate := .idle }) ∨
    (∃ f i, s.rxOutcome = .frame f ∧ decodeRequest f = .ok i ∧ s.responderGap35 = .run i s.rxClear) ∨
    (∃ f e, s.rxOutcome = .frame f ∧ decodeRequest f = .error e ∧
      s.responderGap35 = .done (s.rxClear.rejectRequest e)) := by
  unfold responderGap35
  rcases rxOutcome_cases s with ⟨h0, h⟩ | ⟨e, h⟩ | ⟨_, _, _, f, _, h⟩ <;> rw [h]
  · exact Or.inl ⟨h0, rfl⟩
  · exact Or.inr (Or.inl ⟨e, rfl, rfl⟩)
  · cases hd : decodeRequest f with
    | ok i => exact Or.inr (Or.inr (Or.inl ⟨f, i, rfl, hd, by simp only [hd]⟩))
    | error e => exact Or.inr (Or.inr (Or.inr ⟨f, e, rfl, hd, by simp only [hd]⟩))

/-- Everything a Gap35 at a Requester can find to do (R188, R189). -/
theorem requesterGap35_cases (s : State) :
    (s.qstate = .idle ∧ s.requesterGap35 = .done s) ∨
    (s.qstate = .awaitingResponse ∧ s.rxlen = 0 ∧ s.requesterGap35 = .done s.rxClear) ∨
    (s.qstate = .awaitingResponse ∧ s.requesterGap35 = .done s.rxClear.discardWindow ∧
      ((∃ e, s.rxOutcome = .dropped e) ∨ ∃ f e, s.rxOutcome = .frame f ∧ decodeResponse f = .error e)) ∨
    (s.qstate = .awaitingResponse ∧ ∃ f i, s.rxOutcome = .frame f ∧ decodeResponse f = .ok i ∧
      s.requesterGap35 = .run i s.rxClear) := by
  unfold requesterGap35
  cases hq : s.qstate
  · exact Or.inl ⟨rfl, rfl⟩
  · rcases rxOutcome_cases s with ⟨h0, h⟩ | ⟨e, h⟩ | ⟨_, _, _, f, _, h⟩ <;> rw [h]
    · exact Or.inr (Or.inl ⟨rfl, h0, rfl⟩)
    · exact Or.inr (Or.inr (Or.inl ⟨rfl, rfl, Or.inl ⟨e, rfl⟩⟩))
    · cases hd : decodeResponse f with
      | ok i => exact Or.inr (Or.inr (Or.inr ⟨rfl, f, i, rfl, hd, by simp only [hd]⟩))
      | error e => exact Or.inr (Or.inr (Or.inl ⟨rfl, by simp only [hd], Or.inr ⟨f, e, rfl, hd⟩⟩))

end State

/-! ### What an instruction can do -/

/-- What a validated frame can make of a Responder: nothing said, one frame emitted, or a range written and one frame
emitted; Idle after it (R163 to R172). -/
inductive FrameEffect (s : State) : State → Prop where
  | silent : FrameEffect s { s with rstate := .idle }
  | answer (fn : Byte) (payload : List Byte) (h : payload.length ≤ 251) :
      FrameEffect s { s with
        rstate := .idle, outputs := s.outputs ++ [Output.emit (serialize s.cfg.unit fn payload)] }
  | write (start : Nat) (vs : List Word) (fn : Byte) (payload : List Byte) (h : payload.length ≤ 251)
      (hv : validRange s.cfg start vs.length = true) :
      FrameEffect s { s with
        hr := s.hr.writeMany start vs, rstate := .idle,
        outputs := s.outputs ++ [Output.emit (serialize s.cfg.unit fn payload)] }

theorem serve_respondException_effect (s : State) (u fn code : Byte) :
    FrameEffect s (s.serve u (respondException u fn code)) := by
  rcases serve_cases u (respondException u fn code) s with ⟨_, e⟩ | ⟨h, e⟩ <;> rw [e]
  · exact .silent
  · subst h
    rw [respondException_eq]
    exact .answer _ _ (by simp)

theorem serve_drop_effect (s : State) (u : Byte) : FrameEffect s (s.serve u (fun s => s)) := by
  rcases serve_cases u (fun s => s) s with ⟨_, e⟩ | ⟨h, e⟩ <;> rw [e] <;> exact .silent

theorem serve_serveRead_effect (s : State) (u : Byte) (start count : Word) :
    FrameEffect s (s.serve u (serveRead start count)) := by
  rcases serve_cases u (serveRead start count) s with ⟨_, e⟩ | ⟨h, e⟩ <;> rw [e]
  · exact .silent
  · rcases serveRead_cases start count { s with rstate := .dispatched } with ⟨ws, _, _, hl, e⟩ | ⟨_, e⟩ <;> rw [e]
    · exact .answer _ _ (by simp; omega)
    · exact .answer _ _ (by simp)

theorem serve_serveWrite_effect (s : State) (u fn : Byte) (start : Word) (vs : List Word) (r : List Byte)
    (hr : r.length ≤ 251) : FrameEffect s (s.serve u (serveWrite fn start vs r)) := by
  rcases serve_cases u (serveWrite fn start vs r) s with ⟨_, e⟩ | ⟨h, e⟩ <;> rw [e]
  · exact .silent
  · rcases serveWrite_cases fn start vs r { s with rstate := .dispatched } (by simp [maxPayload]; omega) with
      ⟨hv, e⟩ | ⟨_, e⟩ <;> rw [e]
    · exact @FrameEffect.write s start.toNat vs fn r hr hv
    · exact .answer _ _ (by simp)

/-- Everything a wire frame can do at a Responder. -/
theorem exec_frame_responder (i : Instr) (s : State) (hr : s.cfg.role = .responder) (hi : frameUnit i ≠ none) :
    ∃ t, exec i s = .next t ∧ FrameEffect s t := by
  cases i <;> simp only [frameUnit, ne_eq, not_true_eq_false] at hi <;>
    simp only [exec, execRhr, execRhrR, execWsr, execWsrR, execWmr, execWmrR, execExc, hr]
  · exact ⟨_, rfl, serve_serveRead_effect _ _ _ _⟩
  · exact ⟨_, rfl, serve_respondException_effect _ _ _ _⟩
  · exact ⟨_, rfl, serve_serveWrite_effect _ _ _ _ _ _ (by simp)⟩
  · exact ⟨_, rfl, serve_serveWrite_effect _ _ _ _ _ _ (by simp)⟩
  · exact ⟨_, rfl, serve_serveWrite_effect _ _ _ _ _ _ (by simp)⟩
  · exact ⟨_, rfl, serve_respondException_effect _ _ _ _⟩
  · exact ⟨_, rfl, serve_drop_effect _ _⟩

/-- Everything a wire frame can do at a Requester: settle the exchange (R189). -/
theorem exec_frame_requester (i : Instr) (s : State) (hr : s.cfg.role = .requester) (hi : frameUnit i ≠ none) :
    ∃ c, exec i s = .next (s.settle c) := by
  cases i <;> simp only [frameUnit, ne_eq, not_true_eq_false] at hi <;>
    simp only [exec, execRhr, execRhrR, execWsr, execWsrR, execWmr, execWmrR, execExc, hr] <;> exact ⟨_, rfl⟩

/-- What a request that does not decode can do (R169, R171). -/
theorem rejectRequest_effect {f : Frame} {e : DecodeError} (s : State) (h : decodeRequest f = .error e) :
    FrameEffect s (s.rejectRequest e) := by
  rcases decodeRequest_error h with rfl | rfl <;> unfold rejectRequest <;> dsimp only
  · cases isExceptionFn f.fn <;> simp only [if_true, if_false, Bool.false_eq_true]
    · exact serve_respondException_effect _ _ _ _
    · exact serve_drop_effect _ _
  · exact serve_respondException_effect _ _ _ _

/-- What a host command can do: answer, write `crc_acc`, write a range, open an exchange, or cancel one (R80). -/
inductive CommandEffect (s : State) : State → Prop where
  | answer (r : Except CoreError HostValue) : CommandEffect s { s with outputs := s.outputs ++ [Output.result r] }
  | crc (x : Word) : CommandEffect s { s with crcAcc := x, outputs := s.outputs ++ [Output.result (.ok .done)] }
  | write (start : Nat) (vs : List Word) (hv : validRange s.cfg start vs.length = true)
      (hr : s.cfg.role = .responder) :
      CommandEffect s { s with
        hr := s.hr.writeMany start vs, outputs := s.outputs ++ [Output.result (.ok .done)] }
  | send (unit : Byte) (start count : Word) (timeout : BitVec 32) (meas : Option Descriptor)
      (hr : s.cfg.role = .requester) (hq : s.qstate = .idle) (hu : unitLegal unit = true)
      (hm : meas.all descriptorLegal = true) (hc : ∀ d, meas = some d → count = BitVec.ofNat 16 (spanRegs d.span)) :
      CommandEffect s { s.rxClear with
        outputs := s.outputs ++ [Output.emit (serialize unit fnRead (twoWords start count)), Output.armTimer timeout],
        inflight := { unit := unit, fn := fnRead, start := start, count := count },
        expired := false, pendingMeas := meas, qstate := .awaitingResponse }
  | cancel (hr : s.cfg.role = .requester) (hq : s.qstate = .awaitingResponse) :
      CommandEffect s ((s.complete (.error .cancelled)).deliver (.ok .done))

/-- Everything a host command can do. -/
theorem exec_command (i : Instr) (s : State) (hi : frameUnit i = none) :
    ∃ t, exec i s = .next t ∧ CommandEffect s t := by
  cases i <;> simp only [frameUnit, reduceCtorEq] at hi
  all_goals simp only [exec]
  case crcInit => exact ⟨_, rfl, .crc _⟩
  case crcUpd => exact ⟨_, rfl, .crc _⟩
  case rsWrite start vs =>
    refine ⟨_, rfl, ?_⟩
    unfold inRole
    split
    · dsimp only
      rcases writeRegs_cases s start.toNat vs with ⟨hv, e⟩ | ⟨_, e⟩ <;> rw [e]
      · exact .write _ _ hv ‹_›
      · exact .answer _
    · exact .answer _
  case rsRead =>
    refine ⟨_, rfl, ?_⟩
    unfold inRole
    split <;> exact .answer _
  case rqSendRead u a c x =>
    refine ⟨_, rfl, ?_⟩
    unfold inRole
    split
    · rcases startRead_cases u a c x none s with ⟨_, e⟩ | ⟨_, _, e⟩ | ⟨hq, hu, hm, e⟩ <;> rw [e]
      · exact .answer _
      · exact .answer _
      · exact .send _ _ _ _ _ ‹_› hq hu hm (by simp)
    · exact .answer _
  case rqReadMeas u a d x =>
    refine ⟨_, rfl, ?_⟩
    unfold inRole
    split
    · rcases startRead_cases u a (BitVec.ofNat 16 (spanRegs d.span)) x (some d) s with
        ⟨_, e⟩ | ⟨_, _, e⟩ | ⟨hq, hu, hm, e⟩ <;> rw [e]
      · exact .answer _
      · exact .answer _
      · exact .send _ _ _ _ _ ‹_› hq hu hm (by rintro _ ⟨⟩; rfl)
    · exact .answer _
  case rqCancel =>
    refine ⟨_, rfl, ?_⟩
    unfold inRole
    split
    · dsimp only
      split
      · exact .answer _
      · exact .cancel ‹_› ‹_›
    · exact .answer _
  all_goals exact ⟨_, rfl, .answer _⟩

/-! ### What a step can do -/

/-- What a step that takes `e` and answers `t` has done, from the state `u` that is `s` without the input (R161, R162,
R163, R188, R189, R192, R240). -/
inductive StepEffect (s u : State) : Input → State → Prop where
  | rxByte (b : Byte) : StepEffect s u (.rxByte b) (u.onRxByte b)
  | gap15 : StepEffect s u .gap15 u.onGap15
  | timeoutIgnored (hr : s.cfg.role = .responder) : StepEffect s u .timeoutExpire u
  | timeout (hr : s.cfg.role = .requester) : StepEffect s u .timeoutExpire u.onTimeout
  | reserved (p : HostPort) (e : DecodeError) (hd : decodeCommand p = .error e) :
      StepEffect s u (.command p) (u.deliver (.error .refused))
  | command (p : HostPort) (i : Instr) (t : State) (hd : decodeCommand p = .ok i) (h : exec i u = .next t) :
      StepEffect s u (.command p) t
  | reset (cfg : Config) (seed : Memory) (hl : cfg.legal = true) (hs : seededBy cfg seed = true) :
      StepEffect s u (.reset cfg seed) (resetWith cfg seed u.inputs
        (if s.cfg.role = .requester ∧ s.qstate = .awaitingResponse then s.outputs ++ [.disarmTimer] else s.outputs))
  | noWindow (hr : s.cfg.role = .responder) (h0 : s.rxlen = 0) : StepEffect s u .gap35 u.rxClear
  | dropped (hr : s.cfg.role = .responder) (e : CoreError) (ho : s.rxOutcome = .dropped e) :
      StepEffect s u .gap35 { u.rxClear with rstate := .idle }
  | request (hr : s.cfg.role = .responder) (f : Frame) (i : Instr) (t : State) (ho : s.rxOutcome = .frame f)
      (hd : decodeRequest f = .ok i) (h : exec i u.rxClear = .next t) : StepEffect s u .gap35 t
  | badRequest (hr : s.cfg.role = .responder) (f : Frame) (e : DecodeError) (ho : s.rxOutcome = .frame f)
      (hd : decodeRequest f = .error e) : StepEffect s u .gap35 (u.rxClear.rejectRequest e)
  | idleGap (hr : s.cfg.role = .requester) (hq : s.qstate = .idle) : StepEffect s u .gap35 u
  | emptyGap (hr : s.cfg.role = .requester) (hq : s.qstate = .awaitingResponse) (h0 : s.rxlen = 0) :
      StepEffect s u .gap35 u.rxClear
  | discarded (hr : s.cfg.role = .requester) (hq : s.qstate = .awaitingResponse) :
      StepEffect s u .gap35 u.rxClear.discardWindow
  | response (hr : s.cfg.role = .requester) (hq : s.qstate = .awaitingResponse) (f : Frame) (i : Instr) (t : State)
      (ho : s.rxOutcome = .frame f) (hd : decodeResponse f = .ok i) (h : exec i u.rxClear = .next t) :
      StepEffect s u .gap35 t

/-- Everything a step that answers a next state can have done: nothing, when no input is there, or what `StepEffect`
lists. -/
theorem step_effect {s t : State} (h : step s = .next t) :
    (s.inputs = [] ∧ t = s) ∨
    ∃ e rest, s.inputs = e :: rest ∧ StepEffect s { s with inputs := rest } e t := by
  unfold step fetch at h
  cases hin : s.inputs with
  | nil =>
    simp only [hin] at h
    injection h with h
    exact Or.inl ⟨rfl, h.symm⟩
  | cons e rest =>
    refine Or.inr ⟨e, rest, rfl, ?_⟩
    simp only [hin] at h
    cases e with
    | rxByte b =>
      simp only [accept] at h
      injection h with h
      exact h ▸ .rxByte b
    | gap15 =>
      simp only [accept] at h
      injection h with h
      exact h ▸ .gap15
    | timeoutExpire =>
      simp only [accept] at h
      cases hr : s.cfg.role <;> simp only [hr] at h <;> injection h with h <;> subst h
      · exact .timeoutIgnored hr
      · exact .timeout hr
    | command p =>
      simp only [accept] at h
      cases hd : decodeCommand p with
      | error x =>
        simp only [hd] at h
        injection h with h
        exact h ▸ .reserved p x hd
      | ok i =>
        simp only [hd] at h
        exact .command p i t hd h
    | reset cfg seed =>
      simp only [accept, onReset] at h
      by_cases hc : (cfg.legal && seededBy cfg seed) = true
      · simp only [hc, if_true] at h
        injection h with h
        simp only [Bool.and_eq_true] at hc
        subst h
        exact .reset cfg seed hc.1 hc.2
      · simp only [hc] at h
        cases h
    | gap35 =>
      simp only [accept] at h
      cases hr : s.cfg.role <;> simp only [hr] at h
      · rcases responderGap35_cases { s with inputs := rest } with
          ⟨h0, e⟩ | ⟨x, hx, e⟩ | ⟨f, i, hf, hd, e⟩ | ⟨f, x, hf, hd, e⟩ <;> rw [e] at h
        · injection h with h
          exact h ▸ .noWindow hr h0
        · injection h with h
          exact h ▸ .dropped hr x hx
        · exact .request hr f i t hf hd h
        · injection h with h
          exact h ▸ .badRequest hr f x hf hd
      · rcases requesterGap35_cases { s with inputs := rest } with
          ⟨hq, e⟩ | ⟨hq, h0, e⟩ | ⟨hq, e, _⟩ | ⟨hq, f, i, hf, hd, e⟩ <;> rw [e] at h
        · injection h with h
          subst h
          exact .idleGap hr hq
        · injection h with h
          exact h ▸ .emptyGap hr hq h0
        · injection h with h
          exact h ▸ .discarded hr hq
        · exact .response hr hq f i t hf hd h

end Sys2Proof.Machine
end

