-- ==== Sys2Proof/Tests/Slice0.lean ====
section
/-! SUPPORT. Tests of the model. Expected values are the derived vectors of 95_test_vectors.md unless a comment names
another place of the spec. Each test runs one step. The witnesses show, for each statement with hypotheses, concrete
states and operands that meet them together, at the ends of their ranges. -/

namespace Sys2Proof.Tests

open Sys2Proof Sys2Proof.Machine

section

-- one theorem after the other: checked side by side, a hundred evaluations wait for each other, a thread each
set_option Elab.async false

/-! ### Small states -/

/-- A sparse Responder at unit 1 with the addresses 0..3 (section 2.4, file S). -/
def cfgS : Config :=
  { role := .responder, unit := 1, layout := .sparse, denseBase := 0, denseCount := 0,
    sparseMap := [0, 1, 2, 3], acceptNonfinite := false }

def fileS : Memory := [(0, 1), (1, 2), (2, 3), (3, 4)]

def respS : State := State.resetWith cfgS fileS [] []

/-- A sparse Responder with the last two addresses (section 2.3). -/
def respTop : State :=
  State.resetWith { cfgS with sparseMap := [65534, 65535] } [(65534, 1), (65535, 0xBEEF)] [] []

/-- The dense Responder at unit 17 of section 2.3. -/
def respDense : State :=
  State.resetWith { cfgS with unit := 17, layout := .dense, denseBase := 0x6B, denseCount := 3 }
    [(0x6B, 0x0141), (0x6C, 0x0144), (0x6D, 0x0147)] [] []

def cfgQ : Config := { cfgS with role := .requester }

/-- A Requester in Idle. -/
def reqIdle : State := State.resetWith cfgQ [] [] []

/-- A Requester in flight with `unit 1, fn 0x03, start 0, count 1` (section 2.7). -/
def reqWait : State :=
  { reqIdle with qstate := .awaitingResponse, inflight := { unit := 1, fn := 0x03, start := 0, count := 1 } }

/-- Scenario A's descriptor, and scenario B's. -/
def descA : Descriptor := { span := .one, scale := 10, signed := false, byteOrder := .big, wordOrder := .big }

def descB : Descriptor := { span := .two, scale := 0, signed := false, byteOrder := .big, wordOrder := .little }

/-- A Requester awaiting the words of a measurement of descriptor `d`. -/
def reqMeas (d : Descriptor) (n : Word) : State :=
  { reqWait with pendingMeas := some d, inflight := { unit := 1, fn := 0x03, start := 0, count := n } }

/-- The next state, if there is one. -/
def after (o : Host.Outcome State Fault Refusal) : Option State :=
  match o with
  | .next t => some t
  | .fault _ => none
  | .refused _ => none

/-- What one step on a window of these bytes puts out. -/
def onWindow (s : State) (bytes : List Byte) : Option (List Output) :=
  (after (step (s.presenting (.frame bytes)))).map (newOutputs s)

/-- The registers after one step on a window of these bytes. -/
def fileAfter (s : State) (bytes : List Byte) : Option Memory :=
  (after (step (s.presenting (.frame bytes)))).map (·.hr)

/-- What one step on a host command puts out. -/
def onCommand (s : State) (p : HostPort) : Option (List Output) :=
  (after (step (s.presenting (.command p)))).map (newOutputs s)

/-- The result of a host command. -/
def okResult (v : HostValue) : Option (List Output) := some [.result (.ok v)]

def errResult (e : CoreError) : Option (List Output) := some [.result (.error e)]

/-! ### WellFormed refuses (R60, R64, R65) -/

theorem test_wf_rhrR_max : WellFormed (.rhrR 1 (List.replicate 125 0)) = true := by decide +kernel
theorem test_wf_rhrR_refuses_126_words : WellFormed (.rhrR 1 (List.replicate 126 0)) = false := by decide +kernel
theorem test_wf_wmr_max : WellFormed (.wmr 1 0 (List.replicate 123 0)) = true := by decide +kernel
theorem test_wf_wmr_refuses_124_words : WellFormed (.wmr 1 0 (List.replicate 124 0)) = false := by decide +kernel

/-! ### Decoding words written out from the encoding tables -/

theorem test_decode_rhr : decode .responder (.frame [0x01, 0x03, 0x00, 0x0A, 0x00, 0x01, 0xA4, 0x08]) =
    .ok (.rhr 1 10 1) := by decide +kernel

theorem test_decode_rhrR : decode .requester (.frame [0x01, 0x03, 0x04, 0x99, 0x9A, 0x41, 0xBD, 0x04, 0xA1]) =
    .ok (.rhrR 1 [0x999A, 0x41BD]) := by decide +kernel

theorem test_decode_wsr : decode .responder (.frame [0x01, 0x06, 0x00, 0x01, 0xAB, 0xCD, 0x66, 0xAF]) =
    .ok (.wsr 1 1 0xABCD) := by decide +kernel

theorem test_decode_wsrR : decode .requester (.frame [0x01, 0x06, 0x00, 0x01, 0xAB, 0xCD, 0x66, 0xAF]) =
    .ok (.wsrR 1 1 0xABCD) := by decide +kernel

theorem test_decode_wmr :
    decode .responder (.frame [0x01, 0x10, 0x00, 0x02, 0x00, 0x02, 0x04, 0x11, 0x22, 0x33, 0x44, 0xC3, 0x83]) =
    .ok (.wmr 1 2 [0x1122, 0x3344]) := by decide +kernel

theorem test_decode_wmrR : decode .requester (.frame [0x01, 0x10, 0x00, 0x02, 0x00, 0x02, 0xE0, 0x08]) =
    .ok (.wmrR 1 2 2) := by decide +kernel

theorem test_decode_exc : decode .requester (.frame [0x01, 0x83, 0x02, 0xC0, 0xF1]) = .ok (.exc 1 0x03 0x02) := by
  decide +kernel

/-- The OPSEL table of R80, one row a line. -/
theorem test_decode_host_units :
    decodeCommand { opsel := 0x01 } = .ok .crcInit ∧
    decodeCommand { opsel := 0x02, b := 0x31 } = .ok (.crcUpd 0x31) ∧
    decodeCommand { opsel := 0x03 } = .ok .crcRead ∧
    decodeCommand { opsel := 0x04, unit := 1, fn := 3, payload := [0, 1] } = .ok (.frmEnc 1 3 [0, 1]) ∧
    decodeCommand { opsel := 0x05, raw := [1, 3] } = .ok (.frmDec [1, 3]) ∧
    decodeCommand { opsel := 0x08, start := 2, count := 3 } = .ok (.rsRead 2 3) ∧
    decodeCommand { opsel := 0x09, start := 2, values := [7, 8] } = .ok (.rsWrite 2 [7, 8]) := by decide +kernel

theorem test_decode_host_codec :
    decodeCommand { opsel := 0x0A, value := 5, span := 1, scale := 9, signed := 1, byteOrder := 0, wordOrder := 1 } =
      .ok (.encMeas 5 { span := .two, scale := 9, signed := true, byteOrder := .big, wordOrder := .little }) ∧
    decodeCommand { opsel := 0x0B, words := [5], scale := 9, byteOrder := 1 } =
      .ok (.decMeas [5] { span := .one, scale := 9, signed := false, byteOrder := .little, wordOrder := .big }) ∧
    decodeCommand { opsel := 0x0C, value := 5, scale := 9, signed := 1 } = .ok (.encScaled 5 9 true) ∧
    decodeCommand { opsel := 0x0D, word := 5, scale := 9, signed := 0 } = .ok (.decScaled 5 9 false) ∧
    decodeCommand { opsel := 0x0E, value := 5, byteOrder := 0, wordOrder := 1 } = .ok (.encF32 5 .big .little) ∧
    decodeCommand { opsel := 0x0F, reg0 := 5, reg1 := 6, byteOrder := 1, wordOrder := 0 } =
      .ok (.decF32 5 6 .little .big) := by decide +kernel

theorem test_decode_host_requester :
    decodeCommand { opsel := 0x10, unit := 1, start := 10, count := 2, timeout := 1000 } =
      .ok (.rqSendRead 1 10 2 1000) ∧
    decodeCommand { opsel := 0x11 } = .ok .rqCancel ∧
    decodeCommand { opsel := 0x12, unit := 1, addr := 100, span := 1, wordOrder := 1, timeout := 1000 } =
      .ok (.rqReadMeas 1 100 descB 1000) := by decide +kernel

/-- R72, R74, R81, R103: what no decoder reads is refused by name. -/
theorem test_decode_refuses :
    decode .responder (.frame [0x01, 0x03, 0x00, 0x01, 0x00, 0x01, 0x84, 0x0A]) = .error (.badFrame .crcMismatch) ∧
    decode .responder (.frame [0x01, 0x03, 0x00]) = .error (.badFrame .frameTooShort) ∧
    decode .responder (.frame [0x01, 0x04, 0x00, 0x00, 0x00, 0x01, 0x31, 0xCA]) = .error (.unsupportedFunction 1 4) ∧
    decode .responder (.frame [0x01, 0x10, 0x00, 0x02, 0x00, 0x02, 0x03, 0x11, 0x22, 0x33, 0xBE, 0xF6]) =
      .error (.badPdu 1 0x10) ∧
    decodeCommand { opsel := 0x13 } = .error (.reservedOpsel 0x13) := by decide +kernel

/-- The host's table words: a function code, an exception, and an OPSEL (log 9). -/
theorem test_table_words :
    decodeTableWord 8 0x03 = some (.rhr 1 0 0) ∧ decodeTableWord 8 0x80 = some (.exc 1 0 0) ∧
    decodeTableWord 8 0x11 = some .rqCancel ∧ decodeTableWord 8 0x00 = none := by decide +kernel

/-- The step after `withFetchWord` from reset runs the frame: RHR of count 0 is answered with exception 0x02 (R166). -/
theorem test_fetch_word_runs : (after (step (State.reset.withFetchWord 8 0x03))).map (·.outputs) =
    some [.emit [0x01, 0x83, 0x02, 0xC0, 0xF1]] := by decide +kernel

/-! ### The CRC generator (section 2.1) -/

theorem test_crcStep : crcStep 0 1 = 0xC0C1 ∧ crcStep 0 0x80 = 0xA001 ∧ crcStep 0xFFFF 0 = 0x40BF ∧
    crcStep 0xFFFF 0x31 = 0x947E := by decide +kernel

theorem test_crc16 : crc16 [] = 0xFFFF ∧ crc16 [0x11, 0x03, 0x00, 0x6B, 0x00, 0x03] = 0x8776 ∧
    crc16 [0x01, 0x03, 0x00, 0x00, 0x00, 0x01, 0x84, 0x0A] = 0 := by decide +kernel

theorem test_crcInit : (after (exec .crcInit { respS with crcAcc := 0x1234 })).map (·.crcAcc) = some 0xFFFF := by
  decide +kernel

theorem test_crcUpd : (after (exec (.crcUpd 0x03) { respS with crcAcc := 0x807E })).map (·.crcAcc) = some 0x2140 := by
  decide +kernel

theorem test_crcRead : onCommand { respS with crcAcc := 0x0A84 } { opsel := 0x03 } = okResult (.word 0x0A84) := by
  decide +kernel

/-! ### The framer (section 2.2) -/

theorem test_frmEnc : onCommand reqIdle { opsel := 0x04, unit := 1, fn := 3, payload := [0, 0, 0, 1] } =
    okResult (.bytes [0x01, 0x03, 0x00, 0x00, 0x00, 0x01, 0x84, 0x0A]) := by decide +kernel

theorem test_frmEnc_too_large : onCommand reqIdle { opsel := 0x04, payload := List.replicate 253 0 } =
    errResult .payloadTooLarge := by decide +kernel

theorem test_frmDec : onCommand respS { opsel := 0x05, raw := [0x01, 0x03, 0x40, 0x21] } =
    okResult (.frame 1 3 []) := by decide +kernel

theorem test_frmDec_swapped_crc : onCommand respS
    { opsel := 0x05, raw := [0x01, 0x03, 0x00, 0x00, 0x00, 0x01, 0x0A, 0x84] } = errResult .crcMismatch := by
  decide +kernel

/-- A valid frame followed by one 00 is again a valid frame. -/
theorem test_decode_appended_zero :
    frameDecode [0x01, 0x03, 0x00, 0x00, 0x00, 0x01, 0x84, 0x0A, 0x00] =
      .ok { unit := 1, fn := 3, payload := [0, 0, 0, 1, 0x84], crc := 0x000A } := by decide +kernel

/-- Receive path: a gap inside, and a gap before the first byte. -/
theorem test_gap_inside :
    (respS.receive [some 1, some 3, none, some 0x40, some 0x21]).rxOutcome = .dropped .frameTimeout := by
  decide +kernel

theorem test_gap_before : (respS.receive [none, some 1, some 3, some 0x40, some 0x21]).rxOutcome =
    .frame { unit := 1, fn := 3, payload := [], crc := 0x2140 } := by decide +kernel

/-! ### The register file (section 2.3) -/

theorem test_rsRead : onCommand respS { opsel := 0x08, start := 0, count := 4 } = okResult (.words [1, 2, 3, 4]) := by
  decide +kernel

theorem test_rsRead_no_wrap : onCommand respTop { opsel := 0x08, start := 65534, count := 2 } =
      okResult (.words [1, 0xBEEF]) ∧
    onCommand respTop { opsel := 0x08, start := 65535, count := 2 } = errResult .illegalDataAddress := by
  decide +kernel

theorem test_rsWrite : (after (exec (.rsWrite 2 [0x1122, 0x3344]) respS)).map (·.hr) =
    some [(0, 1), (1, 2), (2, 0x1122), (3, 0x3344)] := by decide +kernel

theorem test_rsWrite_all_or_nothing : (after (exec (.rsWrite 3 [0x5566, 0x7788]) respS)).map (·.hr) = some fileS := by
  decide +kernel

/-! ### The responder (section 2.4) -/

theorem test_rhr : onWindow respS [0x01, 0x03, 0x00, 0x00, 0x00, 0x04, 0x44, 0x09] =
    some [.emit [0x01, 0x03, 0x08, 0, 1, 0, 2, 0, 3, 0, 4, 0x0D, 0x14]] := by decide +kernel

theorem test_rhr_dense : onWindow respDense [0x11, 0x03, 0x00, 0x6B, 0x00, 0x03, 0x76, 0x87] =
    some [.emit [0x11, 0x03, 0x06, 0x01, 0x41, 0x01, 0x44, 0x01, 0x47, 0xD1, 0x20]] := by decide +kernel

theorem test_wsr : fileAfter respS [0x01, 0x06, 0x00, 0x01, 0xAB, 0xCD, 0x66, 0xAF] =
      some [(0, 1), (1, 0xABCD), (2, 3), (3, 4)] ∧
    onWindow respS [0x01, 0x06, 0x00, 0x01, 0xAB, 0xCD, 0x66, 0xAF] =
      some [.emit [0x01, 0x06, 0x00, 0x01, 0xAB, 0xCD, 0x66, 0xAF]] := by decide +kernel

theorem test_wsr_unmapped : onWindow respS [0x01, 0x06, 0x00, 0x09, 0xAB, 0xCD, 0xE7, 0x6D] =
    some [.emit [0x01, 0x86, 0x02, 0xC3, 0xA1]] := by decide +kernel

theorem test_wmr :
    onWindow respS [0x01, 0x10, 0x00, 0x02, 0x00, 0x02, 0x04, 0x11, 0x22, 0x33, 0x44, 0xC3, 0x83] =
      some [.emit [0x01, 0x10, 0x00, 0x02, 0x00, 0x02, 0xE0, 0x08]] ∧
    fileAfter respS [0x01, 0x10, 0x00, 0x02, 0x00, 0x02, 0x04, 0x11, 0x22, 0x33, 0x44, 0xC3, 0x83] =
      some [(0, 1), (1, 2), (2, 0x1122), (3, 0x3344)] := by decide +kernel

theorem test_wmr_partly_absent :
    onWindow respS [0x01, 0x10, 0x00, 0x03, 0x00, 0x02, 0x04, 0x55, 0x66, 0x77, 0x88, 0x65, 0xFF] =
      some [.emit [0x01, 0x90, 0x02, 0xCD, 0xC1]] ∧
    fileAfter respS [0x01, 0x10, 0x00, 0x03, 0x00, 0x02, 0x04, 0x55, 0x66, 0x77, 0x88, 0x65, 0xFF] = some fileS := by
  decide +kernel

/-- Malformed PDUs, an unsupported function, and the silences: another unit, unit 0, an exception frame, a bad CRC. -/
theorem test_responder_rejects :
    onWindow respS [0x01, 0x03, 0x00, 0x00, 0x00, 0x19, 0x84] = some [.emit [0x01, 0x83, 0x03, 0x01, 0x31]] ∧
    onWindow respS [0x01, 0x10, 0x00, 0x02, 0x00, 0x02, 0x03, 0x11, 0x22, 0x33, 0xBE, 0xF6] =
      some [.emit [0x01, 0x90, 0x03, 0x0C, 0x01]] ∧
    onWindow respS [0x01, 0x04, 0x00, 0x00, 0x00, 0x01, 0x31, 0xCA] = some [.emit [0x01, 0x84, 0x01, 0x82, 0xC0]] := by
  decide +kernel

theorem test_responder_is_silent :
    onWindow respS [0x02, 0x03, 0x00, 0x00, 0x00, 0x01, 0x84, 0x39] = some [] ∧
    onWindow respS [0x00, 0x03, 0x00, 0x00, 0x00, 0x01, 0x85, 0xDB] = some [] ∧
    onWindow respS [0x01, 0x83, 0x02, 0xC0, 0xF1] = some [] ∧
    onWindow respS [0x01, 0x03, 0x00, 0x01, 0x00, 0x01, 0x84, 0x0A] = some [] := by decide +kernel

/-- R171 with R62: a read response addressed to a Responder is a read request of the wrong length. -/
theorem test_rhrR_at_responder : onWindow respS [0x01, 0x03, 0x02, 0x08, 0x98, 0xBE, 0x2E] =
    some [.emit [0x01, 0x83, 0x03, 0x01, 0x31]] := by decide +kernel

theorem test_wmrR_at_responder : onWindow respS [0x01, 0x10, 0x00, 0x02, 0x00, 0x02, 0xE0, 0x08] =
    some [.emit [0x01, 0x90, 0x03, 0x0C, 0x01]] := by decide +kernel

/-! ### The requester (sections 2.7 and 4, P3) -/

theorem test_rqSendRead : onCommand reqIdle { opsel := 0x10, unit := 1, start := 0, count := 1, timeout := 1000 } =
    some [.emit [0x01, 0x03, 0x00, 0x00, 0x00, 0x01, 0x84, 0x0A], .armTimer 1000] := by decide +kernel

theorem test_rqSendRead_busy : onCommand reqWait { opsel := 0x10, unit := 1, start := 5, count := 1, timeout := 1000 } =
    errResult .busy := by decide +kernel

theorem test_rqReadMeas : onCommand reqIdle
    { opsel := 0x12, unit := 1, addr := 100, span := 1, wordOrder := 1, timeout := 1000 } =
    some [.emit [0x01, 0x03, 0x00, 0x64, 0x00, 0x02, 0x85, 0xD4], .armTimer 1000] := by decide +kernel

theorem test_rqReadMeas_result :
    onWindow (reqMeas descB 2) [0x01, 0x03, 0x04, 0x99, 0x9A, 0x41, 0xBD, 0x04, 0xA1] =
      some [.completion (.ok (.float 0x4037B33340000000)), .disarmTimer] ∧
    onWindow (reqMeas descA 1) [0x01, 0x03, 0x02, 0x08, 0x98, 0xBE, 0x2E] =
      some [.completion (.ok (.float 0x406B800000000000)), .disarmTimer] := by decide +kernel

theorem test_rqCancel : onCommand reqWait { opsel := 0x11 } =
    some [.completion (.error .cancelled), .disarmTimer, .result (.ok .done)] := by decide +kernel

theorem test_rhrR : onWindow reqWait [0x01, 0x03, 0x02, 0x08, 0x98, 0xBE, 0x2E] =
    some [.completion (.ok (.words [0x0898])), .disarmTimer] := by decide +kernel

theorem test_exc :
    onWindow reqWait [0x01, 0x83, 0x02, 0xC0, 0xF1] = some [.completion (.error .illegalDataAddress), .disarmTimer] ∧
    onWindow reqWait [0x01, 0x83, 0x04, 0x40, 0xF3] = some [.completion (.error .slaveDeviceFailure), .disarmTimer] ∧
    onWindow reqWait [0x01, 0x83, 0x0B, 0x00, 0xF7] =
      some [.completion (.error (.unknownException 0x0B)), .disarmTimer] := by decide +kernel

/-- Discarded windows: unit 2, a longer response, an exception to another function, a bad CRC. -/
theorem test_discards :
    onWindow reqWait [0x02, 0x03, 0x02, 0x00, 0x00, 0xFC, 0x44] = some [] ∧
    onWindow reqWait [0x01, 0x03, 0x04, 0x00, 0x00, 0x00, 0x00, 0xFA, 0x33] = some [] ∧
    onWindow reqWait [0x01, 0x86, 0x02, 0xC3, 0xA1] = some [] ∧
    onWindow reqWait [0x01, 0x03, 0x02, 0x08, 0x18, 0xBE, 0x2E] = some [] := by decide +kernel

theorem test_discard_after_timeout : onWindow { reqWait with expired := true } [0x01, 0x83, 0x02, 0x00, 0xF1, 0x50] =
    some [.completion (.error .responseTimeout), .disarmTimer] := by decide +kernel

/-- WSR.R and WMR.R at a Requester are mismatched (R73). -/
theorem test_wsrR_wmrR_discarded :
    onWindow reqWait [0x01, 0x06, 0x00, 0x01, 0xAB, 0xCD, 0x66, 0xAF] = some [] ∧
    onWindow reqWait [0x01, 0x10, 0x00, 0x02, 0x00, 0x02, 0xE0, 0x08] = some [] := by decide +kernel

/-- P3 lines 8, 12: the timeout with no byte, and with a candidate being received. -/
theorem test_timeout :
    (after (step { reqWait with inputs := [.timeoutExpire] })).map (fun t => (t.qstate, t.outputs)) =
      some (.idle, [.completion (.error .responseTimeout), .disarmTimer]) ∧
    (after (step { reqWait with inputs := [.timeoutExpire], rxlen := 3 })).map (fun t => (t.qstate, t.expired, t.outputs)) =
      some (.awaitingResponse, true, []) := by decide +kernel

/-! ### The codec (sections 2.5 and 2.6; binary64 patterns of the decimals) -/

/-- 220.0 and 6553.5 with scale 10; −0.5 rounds to −1 and fails unsigned. -/
theorem test_encScaled :
    onCommand respS { opsel := 0x0C, value := 0x406B800000000000, scale := 10 } = okResult (.word 0x0898) ∧
    onCommand respS { opsel := 0x0C, value := 0x40B9998000000000, scale := 10 } = okResult (.word 0xFFFF) ∧
    onCommand respS { opsel := 0x0C, value := 0xBFE0000000000000, scale := 1 } = errResult .valueOutOfRange := by
  decide +kernel

/-- 0.15 × 10: the binary64 product is 1.5 and rounds to 2; −1.25 × 2 signed is −3; NaN and +infinity fail. -/
theorem test_encScaled_corners :
    encScaled 0x3FC3333333333333 10 false = .ok 2 ∧ encScaled 0xBFF4000000000000 2 true = .ok 0xFFFD ∧
    encScaled 0x7FF8000000000000 10 false = .error .valueOutOfRange ∧
    encScaled 0x7FF0000000000000 1 false = .error .valueOutOfRange := by decide +kernel

theorem test_decScaled :
    onCommand respS { opsel := 0x0D, word := 0x0898, scale := 10 } = okResult (.float 0x406B800000000000) := by
  decide +kernel

/-- One third, and 0xFFFF signed with scale 10 is −0.1 (R140). -/
theorem test_decScaled_corners :
    decScaled 1 3 false = 0x3FD5555555555555 ∧ decScaled 0xFFFF 10 true = 0xBFB999999999999A ∧
    decScaled 0 10 true = 0 := by decide +kernel

/-- Narrowing (R145): ties at 2^24 + 1 and 2^24 + 3, the overflow midpoint and the value below it. -/
theorem test_narrow :
    narrow 0x4037B33333333333 = 0x41BD999A ∧ narrow 0x4170000010000000 = 0x4B800000 ∧
    narrow 0x4170000030000000 = 0x4B800002 ∧ narrow 0x47EFFFFFEFFFFFFF = 0x7F7FFFFF ∧
    narrow 0x47EFFFFFF0000000 = 0x7F800000 := by decide +kernel

/-- Underflow (R145): 2^−149 is the least subnormal, 2^−150 goes to zero; signs of zero and of infinity; the quiet NaN. -/
theorem test_narrow_underflow :
    narrow 0x36A0000000000000 = 1 ∧ narrow 0x3690000000000000 = 0 ∧ narrow 0x8000000000000000 = 0x80000000 ∧
    narrow 0xFFF0000000000000 = 0xFF800000 ∧ narrow 0x7FF8000000000000 = 0x7FC00000 := by decide +kernel

theorem test_encF32 : onCommand respS { opsel := 0x0E, value := 0x4037B33333333333, wordOrder := 1 } =
      okResult (.words [0x999A, 0x41BD]) ∧
    onCommand respS { opsel := 0x0E, value := 0x4037B33333333333, byteOrder := 1, wordOrder := 1 } =
      okResult (.words [0x9A99, 0xBD41]) := by decide +kernel

theorem test_decF32 : onCommand respS { opsel := 0x0F, reg0 := 0xBD41, reg1 := 0x9A99, byteOrder := 1 } =
      okResult (.float 0x4037B33340000000) ∧
    onCommand respS { opsel := 0x0F, reg0 := 0x7F80, reg1 := 0 } = errResult .malformedFloat := by decide +kernel

/-- With ACCEPT_NONFINITE the signalling NaN is made quiet. -/
theorem test_decF32_accepts : onCommand (State.resetWith { cfgQ with acceptNonfinite := true } [] [] [])
    { opsel := 0x0F, reg0 := 0x7FA0, reg1 := 0x0001 } = okResult (.float 0x7FFC000020000000) := by decide +kernel

theorem test_encMeas :
    onCommand respS { opsel := 0x0A, value := 0x406B800000000000, scale := 10, byteOrder := 1 } =
      okResult (.words [0x0898]) ∧
    onCommand respS { opsel := 0x0A, value := 0x4037B33333333333, span := 1, wordOrder := 1 } =
      okResult (.words [0x999A, 0x41BD]) := by decide +kernel

theorem test_decMeas : onCommand respS { opsel := 0x0B, words := [0x999A, 0x41BD], span := 1, wordOrder := 1 } =
      okResult (.float 0x4037B33340000000) ∧
    onCommand respS { opsel := 0x0B, words := [0x999A, 0x41BD], scale := 10 } = errResult .refused := by decide +kernel

/-! ### Witnesses: states with the invariant -/

theorem inv_respS : respS.Inv :=
  ⟨by decide +kernel, by decide +kernel, ⟨by decide, by decide, by decide⟩,
    fun _ => ⟨by decide, rfl, rfl, rfl⟩, fun h => absurd h (by decide)⟩

theorem inv_respTop : respTop.Inv :=
  ⟨by decide +kernel, by decide +kernel, ⟨by decide, by decide, by decide⟩,
    fun _ => ⟨by decide, rfl, rfl, rfl⟩, fun h => absurd h (by decide)⟩

/-- A Responder with a whole window received and its Gap35 next. -/
theorem inv_respS_window :
    (respS.presenting (.frame [0x01, 0x03, 0x00, 0x00, 0x00, 0x04, 0x44, 0x09])).Inv :=
  ⟨by decide +kernel, by decide +kernel, ⟨by decide +kernel, by decide +kernel, by decide +kernel⟩,
    fun _ => ⟨by decide +kernel, by decide +kernel, by decide +kernel, by decide +kernel⟩,
    fun h => absurd h (by decide +kernel)⟩

/-- A Responder of the reset state, with the dense registers 0..255. -/
theorem inv_reset : State.reset.Inv :=
  ⟨by decide +kernel, by decide +kernel, ⟨by decide, by decide, by decide⟩,
    fun _ => ⟨by decide, rfl, rfl, rfl⟩, fun h => absurd h (by decide)⟩

theorem inv_reqIdle : reqIdle.Inv :=
  ⟨by decide, by decide, ⟨by decide, by decide, by decide⟩, fun h => absurd h (by decide),
    fun _ => ⟨rfl, fun _ => ⟨rfl, rfl, rfl⟩, fun h => absurd h (by decide)⟩⟩

theorem inv_reqWait : reqWait.Inv :=
  ⟨by decide, by decide, ⟨by decide, by decide, by decide⟩, fun h => absurd h (by decide),
    fun _ => ⟨rfl, fun h => absurd h (by decide), fun _ => ⟨rfl, by decide, fun _ h => by cases h⟩⟩⟩

theorem inv_reqWait_window : (reqWait.presenting (.frame [0x01, 0x83, 0x02, 0xC0, 0xF1])).Inv :=
  ⟨by decide +kernel, by decide +kernel, ⟨by decide +kernel, by decide +kernel, by decide +kernel⟩,
    fun h => absurd h (by decide +kernel),
    fun _ => ⟨by decide +kernel, fun h => absurd h (by decide +kernel),
      fun _ => ⟨by decide +kernel, by decide +kernel, fun _ h => by
        have e : (reqWait.presenting (.frame [0x01, 0x83, 0x02, 0xC0, 0xF1])).pendingMeas = none := by decide +kernel
        rw [e] at h
        cases h⟩⟩⟩

theorem inv_reqMeas : (reqMeas descB 2).Inv :=
  ⟨by decide, by decide, ⟨by decide, by decide, by decide⟩, fun h => absurd h (by decide),
    fun _ => ⟨rfl, fun h => absurd h (by decide),
      fun _ => ⟨rfl, by decide, fun d h => by cases h; exact ⟨by decide, by decide⟩⟩⟩⟩

theorem test_reset_reads : State.reset.hr.read 0 = some 0 ∧ State.reset.hr.read 255 = some 0 ∧
    State.reset.hr.read 256 = none := by decide +kernel

/-! ### Witnesses: hypotheses met, at the ends of their ranges

A statement whose hypotheses are the invariant and the role alone has its witness in the theorems above. -/

/-- SingleBitChangesAreDetected: the first and the last bit of the shortest and of the longest frame. -/
theorem witness_single_bit :
    ([] : List Byte).length ≤ 252 ∧ 0 < (serialize 1 3 []).length ∧ (List.replicate 252 (0 : Byte)).length ≤ 252 ∧
    255 < (serialize 1 3 (List.replicate 252 0)).length ∧ 1 < (withCrc []).length := by decide +kernel

/-- CrcCommandsComputeCrc16: other commands and wire activity between the commands. -/
theorem witness_crc_commands :
    let inputs : List Input := [.rxByte 5, .command { opsel := 0x01 }, .gap15, .command { opsel := 0x02, b := 0x31 },
      .command { opsel := 0x03 }, .command { opsel := 0x02, b := 0x32 }, .gap35]
    inputs.all (fun e => !isReset e) = true ∧
    inputs.filterMap crcWrite = .crcInit :: ([0x31, 0x32] : List Byte).map .crcUpd := by decide +kernel

/-- CrcAccIsTouchedOnlyByItsCommands: FRM.ENC, a Gap35 and nothing presented. -/
theorem witness_crc_acc :
    isCrcCommand (.command { opsel := 0x04 }) = false ∧ isReset (.command { opsel := 0x04 }) = false ∧
    isCrcCommand .gap35 = false ∧ isReset .gap35 = false := by decide +kernel

/-- FrmEncResult and FrameEncodeDecodeInverse: 252 and 253 payload bytes. -/
theorem witness_frmEnc : (List.replicate 252 (0 : Byte)).length ≤ 252 ∧ 253 ≤ (List.replicate 253 (0 : Byte)).length := by
  decide +kernel

/-- FrmDecResult: 3 and 257 bytes, bodies of 2 and of 254 bytes with a wrong CRC byte; and the converse of R105. -/
theorem witness_frmDec :
    ([1, 3, 0] : List Byte).length < 4 ∧ 256 < (List.replicate 257 (0 : Byte)).length ∧
    2 ≤ ([1, 3] : List Byte).length ∧ ([1, 3] : List Byte).length ≤ 254 ∧
    ¬((0x40 : Byte) = lo8 (crc16 [1, 3]) ∧ (0x20 : Byte) = hi8 (crc16 [1, 3])) ∧
    (List.replicate 254 (0 : Byte)).length ≤ 254 ∧
    frameDecode [0x01, 0x03, 0x40, 0x21] = .ok { unit := 1, fn := 3, payload := [], crc := 0x2140 } := by decide +kernel

/-- Every body has a pair of trailing bytes that is not its CRC. -/
theorem witness_wrong_crc (body : List Byte) :
    ¬(lo8 (crc16 body) + 1 = lo8 (crc16 body) ∧ (0 : Byte) = hi8 (crc16 body)) := by
  have step_ne : ∀ x : Byte, x + 1 ≠ x := by decide
  exact fun h => step_ne _ h.1

/-- EventsAgreeWithWindowForm: a clear receive path, a window with a gap inside, and one of 257 bytes. -/
theorem witness_events : respS.rxlen = 0 ∧ respS.gaperr = false ∧ respS.rxovf = false ∧
    ([some 1, none, some 2] : List (Option Byte)).filterMap id ≠ [] ∧
    (List.replicate 257 (some (0 : Byte))).filterMap id ≠ [] := by decide +kernel

/-- ReceiveEventsAreStored: a byte at 255 and at 256 stored, after a gap; a gap with none and with one byte. -/
theorem witness_receive :
    (let s := { respS with rxlen := 255, rstate := .frameReceiving, inputs := [.rxByte 7] }
     s.cfg.role = .responder ∧ s.rxlen ≤ 256 ∧ s.gaperr = false ∧ s.rxlen < 256) ∧
    (let s := { respS with rxlen := 256, rstate := .frameReceiving, inputs := [.rxByte 7] }
     s.cfg.role = .responder ∧ s.rxlen ≤ 256 ∧ s.gaperr = false ∧ s.rxlen = 256) ∧
    (let s := { reqWait with rxlen := 1, gaperr := true, inputs := [.rxByte 7] }
     s.qstate = .awaitingResponse ∧ s.rxlen ≤ 256 ∧ s.gaperr = true) ∧
    (let s := { reqWait with rxlen := 1, inputs := [.gap15] }
     s.qstate = .awaitingResponse ∧ s.rxlen ≤ 256 ∧ 0 < s.rxlen) ∧
    (let s := { respS with inputs := [.gap15] }; s.cfg.role = .responder ∧ s.rxlen = 0) := by decide +kernel

/-- DecodeReadsBackEveryEncoding: the longest frames; EveryDecodedFrameIsAnEncoding: the decode tests. -/
theorem witness_readback :
    WellFormed (.wmr 255 65535 (List.replicate 123 0xFFFF)) = true ∧
    readBy .responder (.wmr 255 65535 (List.replicate 123 0xFFFF)) = true ∧
    WellFormed (.rhrR 0 (List.replicate 125 0)) = true ∧ readBy .requester (.rhrR 0 (List.replicate 125 0)) = true := by
  decide +kernel

/-- ReservedCommandsAreRefused: the OPSELs at the edges of the table, and each illegal operand. -/
theorem witness_reserved :
    (0x13 ≤ (0x13 : BitVec 5).toNat ∧ 0x13 ≤ (0x1F : BitVec 5).toNat) ∧
    (reqIdle.cfg.role = .requester ∧ respS.cfg.role = .responder) ∧
    ({ descA with scale := 0 }.span = .one ∧ { descA with scale := 0 }.scale = 0) ∧
    ([] : List Word).length ≠ (if descA.span = .one then 1 else 2) ∧
    ([1] : List Word).length ≠ (if descB.span = .one then 1 else 2) ∧
    (reqIdle.qstate = .idle ∧ ((0 : Byte) = 0 ∨ 248 ≤ (0 : Byte).toNat) ∧
      ((248 : Byte) = 0 ∨ 248 ≤ (248 : Byte).toNat) ∧ ((255 : Byte) = 0 ∨ 248 ≤ (255 : Byte).toNat)) := by decide +kernel

/-- StepRunsTheDecodedInstruction: a window that decodes at each role. -/
theorem witness_step_runs :
    (let s := respS.presenting (.frame [0x01, 0x03, 0x00, 0x0A, 0x00, 0x01, 0xA4, 0x08])
     s.inputs = [.gap35] ∧ s.cfg.role = .responder ∧ s.rxlen ≠ 0 ∧ s.gaperr = false ∧ s.rxovf = false ∧
       decode s.cfg.role (.frame s.window) = .ok (.rhr 1 10 1)) ∧
    (let s := reqWait.presenting (.frame [0x01, 0x83, 0x02, 0xC0, 0xF1])
     s.inputs = [.gap35] ∧ s.qstate = .awaitingResponse ∧ s.rxlen ≠ 0 ∧ s.gaperr = false ∧ s.rxovf = false ∧
       decode s.cfg.role (.frame s.window) = .ok (.exc 1 3 2)) := by decide +kernel

/-- EveryInputIsTaken, ResetMeetsTheInvariant, ResetGivesTheTableOfValues: legal resets of both layouts and roles, with
a dense range that ends at 65535 and the units 1 and 247; and illegal ones (U3). -/
theorem witness_reset :
    (cfgS.legal && seededBy cfgS fileS) = true ∧ (cfgQ.legal && seededBy cfgQ []) = true ∧
    (let c := { cfgS with unit := 247, layout := .dense, denseBase := 65535, denseCount := 1 }
     (c.legal && seededBy c [(65535, 9)]) = true) ∧
    { cfgS with unit := 0 }.legal = false ∧ { cfgS with unit := 248 }.legal = false ∧
    { cfgS with layout := .dense }.legal = false ∧
    { cfgS with layout := .dense, denseBase := 65535, denseCount := 2 }.legal = false ∧
    seededBy cfgS [(0, 1), (1, 2), (2, 3)] = false := by decide +kernel

/-- The same reset of a block that awaits a response disarms the timer and puts out nothing else. -/
theorem test_reset_disarms :
    (after (step { reqWait with inputs := [.reset cfgS fileS], crcAcc := 5, expired := true })).map
      (fun t => (t.outputs, t.crcAcc, t.qstate, t.expired)) = some ([.disarmTimer], 0xFFFF, .idle, false) := by decide +kernel

/-- InstructionFrames: an instruction that stores, one that does not, and an address on each side of the stored range. -/
theorem witness_frames :
    (after (exec (.rsWrite 1 [7, 8]) respS)).isSome = true ∧ storeRange (.rsWrite 1 [7, 8]) = some (1, 2) ∧
    (0 < 1 ∨ 1 + 2 ≤ 0) ∧ (3 < 1 ∨ 1 + 2 ≤ 3) ∧ storeRange (.rsRead 0 1) = none ∧ frameUnit (.rsRead 0 1) = none ∧
    (after (exec (.rsRead 0 1) reqIdle)).isSome = true := by decide +kernel

/-- AddressDecodeAndValidation: the dense range that ends at 65535. -/
theorem witness_addresses :
    (let c : Config := { cfgS with layout := .dense, denseBase := 65535, denseCount := 1 }
     c.layout = .dense ∧ c.denseBase.toNat + c.denseCount.toNat - 1 ≤ 65535 ∧ 1 ≤ c.denseCount.toNat) ∧
    cfgS.layout = .sparse ∧ 65535 < 65536 := by decide +kernel

/-- RsReadResult, RsWriteResult, WriteThenReadReturnsTheValues, RhrAnswersWithTheRegisters, WmrWritesTheRegisters: valid
ranges of 1 and 125 registers, ranges that are not, and a range that ends at 65535. -/
theorem witness_ranges :
    validRange respS.cfg 3 1 = true ∧ validRange respS.cfg 0 0 = false ∧ validRange respS.cfg 3 2 = false ∧
    validRange State.reset.cfg 0 125 = true ∧ validRange State.reset.cfg 0 126 = false ∧
    validRange State.reset.cfg 131 125 = true ∧ validRange State.reset.cfg 132 125 = false ∧
    validRange respTop.cfg 65534 2 = true ∧ validRange respTop.cfg 65535 2 = false ∧
    (List.replicate 123 (0 : Word)).length ≤ 123 ∧ validRange State.reset.cfg 0 123 = true := by decide +kernel

/-- WsrWritesOneRegister: the first and the last mapped address, and the one after. -/
theorem witness_wsr : mapped respS.cfg 0 = true ∧ mapped respS.cfg 3 = true ∧ mapped respS.cfg 4 = false := by
  decide +kernel

/-- MappedNeverChanges, RegistersChangeOnlyByWrites: a step that changes a register, by each path. -/
theorem witness_register_changes :
    (after (step { respS with inputs := [.command { opsel := 0x09, start := 3, values := [9] }] })).map
        (fun t => t.hr.read 3) = some (some 9) ∧
    (after (step (respS.presenting (.frame [0x01, 0x06, 0x00, 0x01, 0xAB, 0xCD, 0x66, 0xAF])))).map
        (fun t => t.hr.read 1) = some (some 0xABCD) ∧
    isReset (.command { opsel := 0x09, start := 3, values := [9] }) = false ∧ isReset .gap35 = false := by decide +kernel

/-- DroppedWindowsLeaveNoTrace: a gap, an overflow, a bad CRC; ResponderStepRefinesDispatch has these and the frames. -/
theorem witness_dropped :
    (let s := { respS with rxlen := 1, gaperr := true, inputs := [.gap35] }; s.rxlen ≠ 0 ∧ s.gaperr = true) ∧
    (let s := { respS with rxlen := 256, rxovf := true, inputs := [.gap35] }; s.rxlen ≠ 0 ∧ s.rxovf = true) ∧
    (let s := respS.presenting (.frame [0x01, 0x03, 0x00]); s.rxlen ≠ 0 ∧
      frameDecode s.window = .error .frameTooShort) := by decide +kernel

/-- FramesForOtherUnitsAreIgnored, UnsupportedFunctionsAnswered: frames for unit 2 and 0; codes 0x00, 0x04, 0x83. -/
theorem witness_frames_judged :
    (let s := respS.presenting (.frame [0x02, 0x03, 0x00, 0x00, 0x00, 0x01, 0x84, 0x39])
     s.inputs = [.gap35] ∧ s.rxOutcome = .frame { unit := 2, fn := 3, payload := [0, 0, 0, 1], crc := 0x3984 }) ∧
    (let s := respS.presenting (.frame [0x01, 0x00, 0x00, 0x20])
     s.inputs = [.gap35] ∧ s.rxOutcome = .frame { unit := 1, fn := 0, payload := [], crc := 0x2000 }) ∧
    (let s := respS.presenting (.frame [0x01, 0x83, 0x02, 0xC0, 0xF1])
     s.inputs = [.gap35] ∧ s.rxOutcome = .frame { unit := 1, fn := 0x83, payload := [2], crc := 0xF1C0 }) ∧
    (0x7F : Byte).toNat < 0x80 ∧ 0x80 ≤ (0x80 : Byte).toNat ∧ frameUnit (.rhr 2 0 1) = some 2 ∧ (2 : Byte) ≠ respS.cfg.unit ∧
    cfgS.legal = true := by decide +kernel

/-- ResponderEmitsOneWellFormedFrame, ResponderIsIdleAfterGap35, OnlyTheseStepsPutOut: a step that emits. -/
theorem witness_emits :
    onWindow respS [0x01, 0x03, 0x00, 0x00, 0x00, 0x04, 0x44, 0x09] ≠ some [] ∧
    (respS.presenting (.frame [0x01, 0x03, 0x00, 0x00, 0x00, 0x04, 0x44, 0x09])).inputs = [.gap35] ∧
    onCommand reqIdle { opsel := 0x10, unit := 247, start := 65535, count := 65535 } ≠ some [] := by decide +kernel

/-- SendReadOpensTheExchange, ReadMeasReadsAndDecodes, CancelEndsTheExchange: both states, the units 1 and 247, a
descriptor of each span. -/
theorem witness_requester_commands :
    reqIdle.cfg.role = .requester ∧ reqIdle.qstate = .idle ∧ 1 ≤ (1 : Byte).toNat ∧ (247 : Byte).toNat ≤ 247 ∧
    reqWait.cfg.role = .requester ∧ reqWait.qstate = .awaitingResponse ∧ reqWait.inflight.fn = 0x03 ∧
    (descA.span = .one → descA.scale ≠ 0) ∧ (descB.span = .one → descB.scale ≠ 0) ∧
    (reqMeas descB 2).pendingMeas = some descB ∧ ([0x999A, 0x41BD] : List Word).length =
      (reqMeas descB 2).inflight.count.toNat := by decide +kernel

/-- DataResponseEndsTheExchange, ExceptionResponseEndsTheExchange, MismatchedFramesAreDiscarded: a response of 1 and of
no words, each mismatch, both values of `expired`. -/
theorem witness_responses :
    reqWait.pendingMeas = none ∧ ([0x0898] : List Word).length = reqWait.inflight.count.toNat ∧
    ([] : List Word).length = { reqWait.inflight with count := 0 }.count.toNat ∧
    ((2 : Byte) ≠ reqWait.inflight.unit ∧ ([1, 2] : List Word).length ≠ reqWait.inflight.count.toNat) ∧
    (0x06 : BitVec 7) ≠ 0x03 ∧ reqWait.expired = false ∧ { reqWait with expired := true }.expired = true := by
  decide +kernel

/-- RequesterStepRefinesClassify, TimeoutEndsOrMarks, IdleRequesterIgnoresEvents, OneResultPerExchange: a step that ends
the exchange, one that starts it, a timeout with and without a byte, events in Idle. -/
theorem witness_requester_steps :
    (reqWait.presenting (.frame [0x01, 0x83, 0x02, 0xC0, 0xF1])).inputs = [.gap35] ∧
    (after (step (reqWait.presenting (.frame [0x01, 0x83, 0x02, 0xC0, 0xF1])))).map (·.qstate) = some .idle ∧
    (after (step (reqIdle.presenting (.command { opsel := 0x10, unit := 1 })))).map (·.qstate) =
      some .awaitingResponse ∧
    reqWait.rxlen = 0 ∧ { reqWait with rxlen := 1 }.rxlen ≠ 0 ∧ reqIdle.qstate = .idle ∧
    isReset .gap35 = false := by decide +kernel

/-- FloatValuesAreIeee: in each format the least and the greatest finite patterns, and the least normal. -/
theorem witness_float_patterns :
    (0 < 2 ^ 32 ∧ isNonfinite binary32 0 = false ∧ floatExp binary32 0 = 0) ∧
    (0x00800000 < 2 ^ 32 ∧ isNonfinite binary32 0x00800000 = false ∧ floatExp binary32 0x00800000 ≠ 0) ∧
    (0xFF7FFFFF < 2 ^ 32 ∧ isNonfinite binary32 0xFF7FFFFF = false) ∧
    (0xFFEFFFFFFFFFFFFF < 2 ^ 64 ∧ isNonfinite binary64 0xFFEFFFFFFFFFFFFF = false ∧
      floatExp binary64 0xFFEFFFFFFFFFFFFF ≠ 0) ∧
    isNonfinite binary64 1 = false ∧ floatExp binary64 1 = 0 := by decide +kernel

/-- ProductAndQuotientAreCorrectlyRounded, NarrowFollowsItsTable, WidenIsExact: finite operands with a divisor that is
not zero, integers of magnitude 65535, an infinity and a NaN of each format. -/
theorem witness_float_classes :
    isNonfinite binary64 (0x3FF0000000000000 : F64).toNat = false ∧
    floatUnits binary64 (0x3FF0000000000000 : F64).toNat ≠ 0 ∧
    (65535 : Int).natAbs ≤ 65535 ∧ (-65535 : Int).natAbs ≤ 65535 ∧
    (isNonfinite binary64 (0x7FF0000000000000 : F64).toNat = true ∧
      isNaN binary64 (0x7FF0000000000000 : F64).toNat = false) ∧
    isNaN binary64 (0x7FF0000000000001 : F64).toNat = true ∧
    (isNonfinite binary32 (0xFF800000 : BitVec 32).toNat = true ∧
      isNaN binary32 (0xFF800000 : BitVec 32).toNat = false) ∧
    isNaN binary32 (0x7FA00001 : BitVec 32).toNat = true := by decide +kernel

/-- The divisor of the witness above is not zero in value. -/
theorem witness_divisor : floatValue binary64 (0x3FF0000000000000 : F64).toNat ≠ 0 := by
  unfold floatValue
  have hs : floatSign binary64 (0x3FF0000000000000 : F64).toNat = false := by decide +kernel
  have hu : floatUnits binary64 (0x3FF0000000000000 : F64).toNat = unitsPerOne binary64 := by decide +kernel
  have hp : unitsPerOne binary64 ≠ 0 := by decide +kernel
  rw [hs, hu]
  have : (unitsPerOne binary64 : ℚ) ≠ 0 := by exact_mod_cast hp
  rw [if_neg (by decide), one_mul, div_self this]
  exact one_ne_zero

/-- RoundHalfAwayIsExact: `2^52` itself meets the second premise. -/
theorem witness_round_half_away :
    isNonfinite binary64 (0x4330000000000000 : F64).toNat = false ∧
    floatSign binary64 (0x4330000000000000 : F64).toNat = false ∧
    floatUnits binary64 (0x4330000000000000 : F64).toNat = 2 ^ 52 * unitsPerOne binary64 := by decide +kernel

/-- EncScaledResult, DecScaledResult, ScaledRoundTrip: the scales 1 and 65535, a value that fits with the word 65535 and
one that does not. -/
theorem witness_scales :
    (1 : Word) ≠ 0 ∧ (65535 : Word) ≠ 0 ∧
    roundHalfAway (mulF64 0x3FF0000000000000 (f64OfInt 65535)) = 65535 ∧
    isNonfinite binary64 (mulF64 0x3FF0000000000000 (f64OfInt 65535)).toNat = false ∧
    ¬(0 ≤ roundHalfAway (mulF64 0xBFE0000000000000 (f64OfInt 1))) := by decide +kernel

/-- Float32RoundTrip, Float32CommandResults, MeasurementsFollowTheirDescriptor: a finite and an infinite pattern with
the default and with ACCEPT_NONFINITE, descriptors of both spans. -/
theorem witness_float32 :
    isNonfinite binary32 (0x7F7FFFFF : BitVec 32).toNat = false ∧
    isNonfinite binary32 (unpackOrder 0x7F7F 0xFFFF .big .big).toNat = false ∧
    (unpackOrder 0x7F80 0 .big .big).toNat / 2 ^ 23 % 2 ^ 8 = 0xFF ∧ respS.cfg.acceptNonfinite = false ∧
    (unpackOrder 0x7F7F 0xFFFF .big .big).toNat / 2 ^ 23 % 2 ^ 8 ≠ 0xFF ∧
    (descA.span = .one ∧ descA.scale ≠ 0) ∧ descB.span = .two := by decide +kernel

end

end Sys2Proof.Tests
end

section
/-! The state (10_state.md): `crc_acc` belongs to its commands (R20, R102), reset (R29, R240), and the address decode and
the validation of a range (R21, R121, R122). -/

namespace Sys2Proof.Machine

namespace State

/-! ### The state with another value in `crc_acc` -/

/-- The state with `x` in `crc_acc` and everything else as it is (R20). -/
def withCrcAcc (x : Word) (s : State) : State := { s with crcAcc := x }

variable (x : Word) (s : State)

@[simp] theorem withCrcAcc_cfg : (s.withCrcAcc x).cfg = s.cfg := rfl
@[simp] theorem withCrcAcc_rstate : (s.withCrcAcc x).rstate = s.rstate := rfl
@[simp] theorem withCrcAcc_qstate : (s.withCrcAcc x).qstate = s.qstate := rfl
@[simp] theorem withCrcAcc_rxlen : (s.withCrcAcc x).rxlen = s.rxlen := rfl
@[simp] theorem withCrcAcc_gaperr : (s.withCrcAcc x).gaperr = s.gaperr := rfl
@[simp] theorem withCrcAcc_inflight : (s.withCrcAcc x).inflight = s.inflight := rfl
@[simp] theorem withCrcAcc_expired : (s.withCrcAcc x).expired = s.expired := rfl
@[simp] theorem withCrcAcc_inputs : (s.withCrcAcc x).inputs = s.inputs := rfl
@[simp] theorem withCrcAcc_rxOutcome : (s.withCrcAcc x).rxOutcome = s.rxOutcome := rfl
@[simp] theorem withCrcAcc_readRegs (start count : Nat) :
    (s.withCrcAcc x).readRegs start count = s.readRegs start count := rfl
@[simp] theorem withCrcAcc_writeRegs (start : Nat) (values : List Word) :
    (s.withCrcAcc x).writeRegs start values = s.writeRegs start values := rfl

/-! ### The shared operations neither read `crc_acc` nor write it -/

@[simp] theorem put_withCrcAcc (o : Output) : (s.withCrcAcc x).put o = (s.put o).withCrcAcc x := rfl

@[simp] theorem deliver_withCrcAcc (r : Except CoreError HostValue) :
    (s.withCrcAcc x).deliver r = (s.deliver r).withCrcAcc x := rfl

@[simp] theorem rxClear_withCrcAcc : (s.withCrcAcc x).rxClear = s.rxClear.withCrcAcc x := rfl

@[simp] theorem complete_withCrcAcc (r : Except CoreError (List Word)) :
    (s.withCrcAcc x).complete r = (s.complete r).withCrcAcc x := rfl

@[simp] theorem rxPush_withCrcAcc (b : Byte) : (s.withCrcAcc x).rxPush b = (s.rxPush b).withCrcAcc x := by
  by_cases hg : s.gaperr = true
  · simp [rxPush, hg]
  · by_cases hl : frameMax ≤ s.rxlen <;> simp [rxPush, hg, hl, withCrcAcc]

@[simp] theorem rxGap15_withCrcAcc : (s.withCrcAcc x).rxGap15 = s.rxGap15.withCrcAcc x := by
  by_cases hl : 0 < s.rxlen <;> simp [rxGap15, hl, withCrcAcc]

@[simp] theorem emitFrame_withCrcAcc (unit fn : Byte) (payload : List Byte) :
    (s.withCrcAcc x).emitFrame unit fn payload = (s.emitFrame unit fn payload).withCrcAcc x := by
  unfold emitFrame
  cases frameEncode unit fn payload <;> rfl

@[simp] theorem respondException_withCrcAcc (unit fn code : Byte) :
    (s.withCrcAcc x).respondException unit fn code = (s.respondException unit fn code).withCrcAcc x :=
  emitFrame_withCrcAcc x s _ _ _

@[simp] theorem discardWindow_withCrcAcc : (s.withCrcAcc x).discardWindow = s.discardWindow.withCrcAcc x := by
  by_cases he : s.expired = true <;> simp [discardWindow, he]

@[simp] theorem settle_withCrcAcc (c : Option (Except CoreError (List Word))) :
    (s.withCrcAcc x).settle c = (s.settle c).withCrcAcc x := by
  simp only [settle, withCrcAcc_qstate]
  cases s.qstate with
  | idle => rfl
  | awaitingResponse =>
    cases c with
    | some r => rfl
    | none => exact discardWindow_withCrcAcc x s

theorem inRole_withCrcAcc (role : Role) (k : State → State)
    (hk : ∀ t : State, k (t.withCrcAcc x) = (k t).withCrcAcc x) :
    (s.withCrcAcc x).inRole role k = (s.inRole role k).withCrcAcc x := by
  simp only [inRole, withCrcAcc_cfg, hk]
  split <;> rfl

theorem serve_withCrcAcc (unit : Byte) (action : State → State)
    (ha : ∀ t : State, action (t.withCrcAcc x) = (action t).withCrcAcc x) :
    (s.withCrcAcc x).serve unit action = (s.serve unit action).withCrcAcc x := by
  by_cases h : unit = s.cfg.unit
  · subst h
    rw [serve_own, ← withCrcAcc_cfg x s, serve_own]
    exact congrArg (fun t : State => { t with rstate := .idle }) (ha { s with rstate := .dispatched })
  · rw [serve_other s h, serve_other (s.withCrcAcc x) h]
    rfl

@[simp] theorem serveRead_withCrcAcc (start count : Word) :
    (s.withCrcAcc x).serveRead start count = (s.serveRead start count).withCrcAcc x := by
  simp only [serveRead, withCrcAcc_readRegs]
  cases s.readRegs start.toNat count.toNat <;> simp

@[simp] theorem serveWrite_withCrcAcc (fn : Byte) (start : Word) (vs : List Word) (response : List Byte) :
    (s.withCrcAcc x).serveWrite fn start vs response = (s.serveWrite fn start vs response).withCrcAcc x := by
  simp only [serveWrite, withCrcAcc_writeRegs]
  cases s.writeRegs start.toNat vs with
  | ok hr => exact emitFrame_withCrcAcc x { s with hr := hr } _ _ _
  | error e => simp

@[simp] theorem rejectRequest_withCrcAcc (e : DecodeError) :
    (s.withCrcAcc x).rejectRequest e = (s.rejectRequest e).withCrcAcc x := by
  cases e with
  | badFrame e => rfl
  | reservedOpsel n => rfl
  | unsupportedFunction unit fn => exact serve_withCrcAcc x s _ _ (fun t => by simp)
  | badPdu unit fn =>
    simp only [rejectRequest]
    exact serve_withCrcAcc x s _ _ (fun t => by cases isExceptionFn fn <;> simp)

@[simp] theorem startRead_withCrcAcc (unit : Byte) (start count : Word) (timeout : BitVec 32) (meas : Option Descriptor) :
    (s.withCrcAcc x).startRead unit start count timeout meas =
      (s.startRead unit start count timeout meas).withCrcAcc x := by
  simp only [startRead, withCrcAcc_qstate, rxClear_withCrcAcc, emitFrame_withCrcAcc]
  split
  · rfl
  · split <;> rfl

@[simp] theorem onTimeout_withCrcAcc : (s.withCrcAcc x).onTimeout = s.onTimeout.withCrcAcc x := by
  cases hq : s.qstate with
  | idle => simp [onTimeout, hq]
  | awaitingResponse =>
    by_cases hl : s.rxlen = 0
    · simp [onTimeout, hq, hl]
    · simp [onTimeout, hq, hl, withCrcAcc]

@[simp] theorem onGap15_withCrcAcc : (s.withCrcAcc x).onGap15 = s.onGap15.withCrcAcc x := by
  simp only [onGap15, withCrcAcc_cfg, withCrcAcc_qstate, rxGap15_withCrcAcc]
  cases s.cfg.role with
  | responder => rfl
  | requester => cases s.qstate <;> rfl

@[simp] theorem onRxByte_withCrcAcc (b : Byte) : (s.withCrcAcc x).onRxByte b = (s.onRxByte b).withCrcAcc x := by
  simp only [onRxByte, withCrcAcc_cfg, withCrcAcc_qstate, withCrcAcc_rstate, rxPush_withCrcAcc]
  cases s.cfg.role with
  | responder =>
    by_cases hr : s.rstate = .idle
    · simp only [hr, if_true]
      exact rxPush_withCrcAcc x { s with rstate := .frameReceiving } b
    · simp [hr]
  | requester => cases s.qstate <;> rfl

end State

/-! ### An instruction that is no CRC command -/

/-- Whether an instruction is one of the three CRC commands (R94 to R96). -/
def isCrcInstr : Instr → Bool
  | .crcInit | .crcUpd _ | .crcRead => true
  | _ => false

theorem isCrcInstr_iff (i : Instr) : isCrcInstr i = true ↔ i = .crcInit ∨ (∃ b, i = .crcUpd b) ∨ i = .crcRead := by
  cases i <;> simp [isCrcInstr]

@[simp] theorem mapNext_next (k : State → State) (t : State) : mapNext k (.next t) = .next (k t) := rfl

/-- A wire frame is no CRC command: they come on the host port only. -/
theorem isCrcInstr_of_frameUnit {i : Instr} {u : Byte} (h : frameUnit i = some u) : isCrcInstr i = false := by
  cases i <;> simp [isCrcInstr, frameUnit] at h ⊢

section
open State
variable (x : Word) (i : Instr) (s : State)

/-- R102: the meaning of a wire frame, the framer's work included, does not depend on `crc_acc`. -/
theorem exec_frame_withCrcAcc (hi : frameUnit i ≠ none) :
    exec i (s.withCrcAcc x) = mapNext (withCrcAcc x) (exec i s) := by
  cases hr : s.cfg.role with
  | responder =>
    cases i <;> simp only [frameUnit, ne_eq, not_true_eq_false] at hi <;>
      simp only [exec, execRhr, execRhrR, execWsr, execWsrR, execWmr, execWmrR, execExc, withCrcAcc_cfg, hr,
        mapNext_next, Host.Outcome.next.injEq] <;>
      exact serve_withCrcAcc x s _ _ (fun t => by simp)
  | requester =>
    cases i <;> simp only [frameUnit, ne_eq, not_true_eq_false] at hi <;>
      simp [exec, execRhr, execRhrR, execWsr, execWsrR, execWmr, execWmrR, execExc, hr]

/-- R20: the meaning of a host command besides CRC.INIT, CRC.UPD and CRC.READ does not depend on `crc_acc`. -/
theorem exec_command_withCrcAcc (hi : frameUnit i = none) (hc : isCrcInstr i = false) :
    exec i (s.withCrcAcc x) = mapNext (withCrcAcc x) (exec i s) := by
  cases i <;> simp only [frameUnit, reduceCtorEq] at hi <;> simp only [isCrcInstr, reduceCtorEq] at hc
  case rsRead start count =>
    exact congrArg _ (inRole_withCrcAcc x s _ _ (fun t => by simp))
  case rsWrite start vs =>
    refine congrArg _ (inRole_withCrcAcc x s _ _ (fun t => ?_))
    simp only [withCrcAcc_writeRegs]
    cases t.writeRegs start.toNat vs <;> rfl
  case rqSendRead | rqReadMeas =>
    exact congrArg _ (inRole_withCrcAcc x s _ _ (fun t => by simp))
  case rqCancel =>
    refine congrArg _ (inRole_withCrcAcc x s _ _ (fun t => ?_))
    simp only [withCrcAcc_qstate]
    cases t.qstate <;> rfl
  all_goals rfl

theorem exec_withCrcAcc (hc : isCrcInstr i = false) :
    exec i (s.withCrcAcc x) = mapNext (withCrcAcc x) (exec i s) := by
  by_cases hi : frameUnit i = none
  · exact exec_command_withCrcAcc x i s hi hc
  · exact exec_frame_withCrcAcc x i s hi

end

/-! ### A step that takes neither a CRC command nor a reset -/

/-- The work with `x` in the `crc_acc` of its state. -/
def Work.withCrcAcc (x : Word) : Work → Work
  | .run i t => .run i (t.withCrcAcc x)
  | .done t => .done (t.withCrcAcc x)
  | .refuse r => .refuse r

namespace State

variable (x : Word) {e : Input} {s : State}

theorem responderGap35_withCrcAcc (s : State) :
    (s.withCrcAcc x).responderGap35 = s.responderGap35.withCrcAcc x := by
  simp only [responderGap35, withCrcAcc_rxOutcome, rxClear_withCrcAcc]
  cases s.rxOutcome with
  | noWindow => rfl
  | dropped e => rfl
  | frame f => cases hd : decodeRequest f <;> simp [hd, Work.withCrcAcc]

theorem requesterGap35_withCrcAcc (s : State) :
    (s.withCrcAcc x).requesterGap35 = s.requesterGap35.withCrcAcc x := by
  simp only [requesterGap35, withCrcAcc_qstate, withCrcAcc_rxOutcome, rxClear_withCrcAcc]
  cases s.qstate with
  | idle => rfl
  | awaitingResponse =>
    cases s.rxOutcome with
    | noWindow => rfl
    | dropped e => simp [Work.withCrcAcc]
    | frame f => cases hd : decodeResponse f <;> simp [hd, Work.withCrcAcc]

theorem accept_withCrcAcc (s : State) (he : isReset e = false) :
    (s.withCrcAcc x).accept e = (s.accept e).withCrcAcc x := by
  cases e with
  | rxByte b => exact congrArg Work.done (onRxByte_withCrcAcc x s b)
  | gap15 => exact congrArg Work.done (onGap15_withCrcAcc x s)
  | gap35 =>
    simp only [accept, withCrcAcc_cfg, responderGap35_withCrcAcc, requesterGap35_withCrcAcc]
    cases s.cfg.role <;> rfl
  | timeoutExpire =>
    simp only [accept, withCrcAcc_cfg, onTimeout_withCrcAcc]
    cases s.cfg.role <;> rfl
  | command p =>
    simp only [accept]
    cases decodeCommand p <;> rfl
  | reset cfg seed => cases he

/-- Only an input that is a CRC command makes a step run one: what a validated window holds is a wire frame. -/
theorem isCrcInstr_of_accept_run {i : Instr} {t : State} (he : isCrcCommand e = false) (h : s.accept e = .run i t) :
    isCrcInstr i = false := by
  cases e with
  | rxByte b => cases h
  | gap15 => cases h
  | timeoutExpire =>
    simp only [accept] at h
    cases hr : s.cfg.role <;> simp only [hr] at h <;> cases h
  | reset cfg seed =>
    simp only [accept, onReset] at h
    split at h <;> cases h
  | command p =>
    simp only [accept] at h
    cases hd : decodeCommand p with
    | error e => simp only [hd] at h; cases h
    | ok j =>
      simp only [hd, Work.run.injEq] at h
      obtain ⟨rfl, -⟩ := h
      obtain ⟨-, hinit, hupd, hread, -⟩ := decodeCommand_opsel hd
      rw [Bool.eq_false_iff, Ne, isCrcInstr_iff]
      simp only [isCrcCommand, Bool.or_eq_false_iff, decide_eq_false_iff_not] at he
      obtain ⟨⟨h1, h2⟩, h3⟩ := he
      rintro (hi | ⟨b, hi⟩ | hi)
      · exact h1 (hinit hi)
      · exact h2 (hupd b hi)
      · exact h3 (hread hi)
  | gap35 =>
    simp only [accept] at h
    cases hr : s.cfg.role <;> simp only [hr] at h
    · rcases responderGap35_cases s with ⟨_, e⟩ | ⟨_, _, e⟩ | ⟨f, j, _, hd, e⟩ | ⟨_, _, _, _, e⟩ <;>
        rw [e] at h <;> cases h
      exact isCrcInstr_of_frameUnit (decodeRequest_frameUnit hd)
    · rcases requesterGap35_cases s with ⟨_, e⟩ | ⟨_, _, e⟩ | ⟨_, e, _⟩ | ⟨_, f, j, _, hd, e⟩ <;>
        rw [e] at h <;> cases h
      exact isCrcInstr_of_frameUnit (decodeResponse_frameUnit hd)

end State

/-- R20, R102: the step with another value in `crc_acc`. -/
theorem step_withCrcAcc (x : Word) (s : State)
    (h : ∀ e rest, s.inputs = e :: rest → isCrcCommand e = false ∧ isReset e = false) :
    step (s.withCrcAcc x) = mapNext (State.withCrcAcc x) (step s) := by
  cases hin : s.inputs with
  | nil => simp [step, State.fetch, hin]
  | cons e rest =>
    obtain ⟨hcrc, hreset⟩ := h e rest hin
    have hf : (s.withCrcAcc x).fetch = s.fetch.withCrcAcc x := by
      simp only [State.fetch, State.withCrcAcc_inputs, hin]
      exact State.accept_withCrcAcc x { s with inputs := rest } hreset
    simp only [step, hf]
    cases hw : s.fetch with
    | run i t =>
      have hi : isCrcInstr i = false := by
        simp only [State.fetch, hin] at hw
        exact State.isCrcInstr_of_accept_run hcrc hw
      exact exec_withCrcAcc x i t hi
    | done t => rfl
    | refuse r => rfl

/-- Settles O6: every operation commutes with `withCrcAcc`, and only a CRC command makes a step run a CRC instruction. -/
theorem crcAccIsTouchedOnlyByItsCommands : Obligations.CrcAccIsTouchedOnlyByItsCommands := by
  unfold Obligations.CrcAccIsTouchedOnlyByItsCommands
  exact fun s x h => step_withCrcAcc x s h

/-! ### Reset (R29, R240, R241) -/

/-- R240, R241: a legal reset leaves `resetWith`, and its one output disarms the timer of an exchange it abandons. -/
theorem step_reset {s : State} {cfg : Config} {seed : Memory} {rest : List Input} (hin : s.inputs = .reset cfg seed :: rest)
    (hl : cfg.legal = true) (hs : seededBy cfg seed = true) :
    step s = .next (State.resetWith cfg seed rest
      (s.outputs ++ if s.cfg.role = .requester ∧ s.qstate = .awaitingResponse then [.disarmTimer] else [])) := by
  by_cases hq : s.cfg.role = .requester ∧ s.qstate = .awaitingResponse <;>
    simp [step, State.fetch, hin, State.accept, State.onReset, hl, hs, hq]

/-- Settles O20: the fields of `resetWith`, the seed's addresses, and the one output a reset can have. -/
theorem resetGivesTheTableOfValues : Obligations.ResetGivesTheTableOfValues := by
  unfold Obligations.ResetGivesTheTableOfValues
  intro s cfg seed rest hin hl hs
  refine ⟨_, step_reset hin hl hs, rfl, fun a => rfl, fun hr a => seeded_isSome hr hs a, rfl, rfl, rfl, rfl, rfl, rfl,
    rfl, rfl, ?_⟩
  have hnew : ∀ os : List Output, newOutputs s (State.resetWith cfg seed rest (s.outputs ++ os)) = os := by
    simp [newOutputs]
  rw [hnew]
  split <;> exact ⟨rfl, rfl, rfl⟩

/-! ### The address decode and the validation of a range (R21, R121, R122) -/

section
variable {c : Config} {a : Nat}

theorem mapped_dense (hd : c.layout = .dense) :
    mapped c a = true ↔ a ≤ 65535 ∧ c.denseBase.toNat ≤ a ∧ a + 1 ≤ c.denseBase.toNat + c.denseCount.toNat := by
  simp [mapped, hd]

theorem mapped_sparse (hs : c.layout = .sparse) : mapped c a = true ↔ ∃ x ∈ c.sparseMap, x.toNat = a := by
  simp [mapped, hs]

/-- No address is above 65535: the dense layout tests it, and a bit of SPARSE_MAP is a 16-bit address (R21). -/
theorem le_of_mapped (h : mapped c a = true) : a ≤ 65535 := by
  cases hl : c.layout with
  | dense => exact ((mapped_dense hl).mp h).1
  | sparse =>
    obtain ⟨x, -, rfl⟩ := (mapped_sparse hl).mp h
    have := x.isLt
    omega

end

/-- Offsets below a count that is not zero are the addresses up to the last. -/
theorem forall_range_iff (p : Nat → Prop) {start count : Nat} (hc : count ≠ 0) :
    (∀ i < count, p (start + i)) ↔ ∀ a, start ≤ a → a ≤ start + count - 1 → p a := by
  constructor
  · intro h a ha hle
    obtain ⟨i, rfl⟩ := Nat.exists_eq_add_of_le ha
    exact h i (by omega)
  · exact fun h i hi => h (start + i) (by omega) (by omega)

/-- Settles O22: the decode by its layout, and the range by its addresses in place of its offsets. -/
theorem addressDecodeAndValidation : Obligations.AddressDecodeAndValidation := by
  unfold Obligations.AddressDecodeAndValidation
  refine ⟨fun c a hd hlast hcount => ?_, fun c a hs => mapped_sparse hs, fun c a ha => ?_, fun c start count => ?_⟩
  · rw [mapped_dense hd]
    omega
  · exact Bool.eq_false_iff.mpr fun h => absurd (le_of_mapped h) (by omega)
  · rw [validRange_iff, and_assoc, and_assoc]
    refine and_congr_right fun hc => and_congr_right fun _ => and_congr_right fun _ => ?_
    exact forall_range_iff (fun a => mapped c a = true) hc

end Sys2Proof.Machine
end

section
/-! The CRC generator (40_crc.md R92, R97, R98). The shift is linear over exclusive-or and one to one, and the bits above
those shifted out pass through it unchanged: these three facts give the table form, the residue and the detection of
errors. -/

namespace Sys2Proof.Machine

/-! ### The shift -/

theorem crcShift_eq_xor (a : Word) : crcShift a = (a >>> 1) ^^^ (if a.getLsbD 0 then crcPoly else 0) := by
  unfold crcShift
  split <;> simp

theorem crcShift_of_even {a : Word} (h : a.getLsbD 0 = false) : crcShift a = a >>> 1 := by
  simp only [crcShift, h, Bool.false_eq_true, if_false]

theorem crcShift_xor (x y : Word) : crcShift (x ^^^ y) = crcShift x ^^^ crcShift y := by
  have hpoly (p q : Bool) : (if p ^^ q then crcPoly else 0) = (if p then crcPoly else 0) ^^^ (if q then crcPoly else 0) := by
    cases p <;> cases q <;> rfl
  simp only [crcShift_eq_xor, BitVec.ushiftRight_xor_distrib, BitVec.getLsbD_xor, hpoly]
  ac_rfl

/-- The bit shifted out comes back as bit 15, which the polynomial has. -/
theorem crcShift_getLsbD_15 (a : Word) : (crcShift a).getLsbD 15 = a.getLsbD 0 := by
  rw [crcShift_eq_xor]
  cases a.getLsbD 0 <;> simp [crcPoly]

theorem eq_zero_of_crcShift_eq_zero {a : Word} (h : crcShift a = 0) : a = 0 := by
  have h0 : a.getLsbD 0 = false := by rw [← crcShift_getLsbD_15, h]; rfl
  rw [crcShift_of_even h0] at h
  refine BitVec.eq_of_getLsbD_eq fun i hi => ?_
  cases i with
  | zero => exact h0
  | succ i => simpa [Nat.add_comm] using congrArg (BitVec.getLsbD · i) h

theorem crcShift_injective : Function.Injective crcShift := fun x y h => by
  rw [← BitVec.xor_eq_zero_iff] at h ⊢
  exact eq_zero_of_crcShift_eq_zero ((crcShift_xor x y).trans h)

/-! ### Several shifts -/

theorem repeat_crcShift_xor (n : Nat) (x y : Word) :
    Nat.repeat crcShift n (x ^^^ y) = Nat.repeat crcShift n x ^^^ Nat.repeat crcShift n y := by
  induction n with
  | zero => rfl
  | succ n ih => simp only [Nat.repeat, ih, crcShift_xor]

theorem repeat_crcShift_injective (n : Nat) : Function.Injective (Nat.repeat crcShift n) := by
  induction n with
  | zero => exact fun _ _ h => h
  | succ n ih => exact crcShift_injective.comp ih

/-- Shifts that shift out zeros only are plain shifts. -/
theorem repeat_crcShift_of_low_zero {x : Word} {n : Nat} (h : ∀ i < n, x.getLsbD i = false) :
    Nat.repeat crcShift n x = x >>> n := by
  induction n with
  | zero => simp [Nat.repeat]
  | succ n ih =>
    have hbit : (x >>> n).getLsbD 0 = false := by simpa using h n (by omega)
    simp only [Nat.repeat, ih fun i hi => h i (by omega), crcShift_of_even hbit, BitVec.shiftRight_add]

/-! ### One byte -/

theorem ushiftRight_eight (w : Word) : w >>> 8 = (hi8 w).setWidth 16 := by
  apply BitVec.eq_of_toNat_eq
  have := w.isLt
  simp only [BitVec.toNat_ushiftRight, BitVec.toNat_setWidth, hi8_toNat, Nat.shiftRight_eq_div_pow]
  omega

/-- `crc_step(a ^ a', b ^ b') = crc_step(a, b) ^ crc_step(a', b')`, R92 in both arguments. -/
theorem crcStep_xor_xor (x y : Word) (b c : Byte) : crcStep (x ^^^ y) (b ^^^ c) = crcStep x b ^^^ crcStep y c := by
  simp only [crcStep, ← repeat_crcShift_xor, BitVec.setWidth_xor]
  congr 1
  ac_rfl

theorem crcStep_zero_right (x : Word) : crcStep x 0 = Nat.repeat crcShift 8 x := by
  simp [crcStep]

theorem crcStep_injective_left (b : Byte) : Function.Injective (crcStep · b) := fun x y h => by
  simpa using repeat_crcShift_injective 8 h

theorem crcStep_injective_right (acc : Word) : Function.Injective (crcStep acc) := fun b c h => by
  have : b.setWidth 16 = c.setWidth 16 := by simpa using repeat_crcShift_injective 8 h
  simpa using congrArg (BitVec.setWidth 8) this

/-- The low byte of the accumulator cancels its low half, and eight shifts bring the high byte down as it is. -/
theorem crcStep_lo8 (acc : Word) : crcStep acc (lo8 acc) = (hi8 acc).setWidth 16 := by
  have hlow (i : Nat) (hi : i < 8) : (acc ^^^ (lo8 acc).setWidth 16).getLsbD i = false := by
    simp [lo8, hi, show i < 16 by omega]
  have hhigh : hi8 (acc ^^^ (lo8 acc).setWidth 16) = hi8 acc := by
    ext i hi
    simp [hi8]
  rw [crcStep, repeat_crcShift_of_low_zero hlow, ushiftRight_eight, hhigh]

theorem crcStep_mk16 (h l : Byte) : crcStep (mk16 h l) l = h.setWidth 16 := by
  simpa using crcStep_lo8 (mk16 h l)

/-- The table form (R92), with the two halves of the accumulator written as its bytes. -/
theorem crcStep_table (acc : Word) (b : Byte) : crcStep acc b = (hi8 acc).setWidth 16 ^^^ crcStep 0 (lo8 acc ^^^ b) := by
  calc crcStep acc b
      = crcStep (acc ^^^ 0) (lo8 acc ^^^ (lo8 acc ^^^ b)) := by simp
    _ = crcStep acc (lo8 acc) ^^^ crcStep 0 (lo8 acc ^^^ b) := crcStep_xor_xor _ _ _ _
    _ = (hi8 acc).setWidth 16 ^^^ crcStep 0 (lo8 acc ^^^ b) := by rw [crcStep_lo8]

/-- Settles O1: both identities are the linearity of the shift, and the table form splits a word into its two bytes. -/
theorem crcStepIsLinearAndTabular : Obligations.CrcStepIsLinearAndTabular := by
  unfold Obligations.CrcStepIsLinearAndTabular
  refine ⟨fun x y => crcStep_xor_xor x y 0 0, fun acc b => by simp [crcStep], fun acc b => ?_⟩
  have hlo : (acc ^^^ b.setWidth 16).setWidth 8 = lo8 acc ^^^ b := by
    ext i hi
    simp [lo8]
  rw [crcStep_table, ushiftRight_eight, hlo]

/-! ### Sequences of bytes -/

theorem crcStep_eq_zero_iff {acc : Word} {b : Byte} : crcStep acc b = 0 ↔ acc = b.setWidth 16 := by
  have h0 : crcStep (b.setWidth 16) b = 0 := by
    rw [crcStep, BitVec.xor_self]
    decide
  rw [← h0]
  exact (crcStep_injective_left b).eq_iff

theorem crcStep_eq_setWidth_iff {acc : Word} {h l : Byte} : crcStep acc l = h.setWidth 16 ↔ acc = mk16 h l := by
  rw [← crcStep_mk16 h l]
  exact (crcStep_injective_left l).eq_iff

theorem crcFrom_append (acc : Word) (s t : List Byte) : crcFrom acc (s ++ t) = crcFrom (crcFrom acc s) t :=
  List.foldl_append

theorem crcFrom_injective (s : List Byte) : Function.Injective (crcFrom · s) := by
  induction s with
  | nil => exact fun _ _ h => h
  | cons b s ih => exact ih.comp (crcStep_injective_left b)

/-- Two bytes bring the accumulator to zero just when they are its own, low byte first (R97). -/
theorem crcFrom_two_eq_zero_iff {acc : Word} {lo hi : Byte} :
    crcFrom acc [lo, hi] = 0 ↔ lo = lo8 acc ∧ hi = hi8 acc := by
  have hword : acc = mk16 hi lo ↔ lo = lo8 acc ∧ hi = hi8 acc := by
    constructor
    · rintro rfl
      simp
    · rintro ⟨rfl, rfl⟩
      simp
  rw [← hword, ← crcStep_eq_setWidth_iff, ← crcStep_eq_zero_iff]
  rfl

/-- The two ways of validating (R97): the trailing bytes are the recomputed CRC just when the CRC of the whole is zero. -/
theorem crc16_append_two_eq_zero_iff {s : List Byte} {lo hi : Byte} :
    crc16 (s ++ [lo, hi]) = 0 ↔ lo = lo8 (crc16 s) ∧ hi = hi8 (crc16 s) := by
  rw [crc16, crcFrom_append, crcFrom_two_eq_zero_iff, crc16]

theorem crc16_withCrc (s : List Byte) : crc16 (withCrc s) = 0 :=
  crc16_append_two_eq_zero_iff.mpr ⟨rfl, rfl⟩

/-- Settles O2: the two trailing bytes are cleared only by the CRC's own; `[0]` has a CRC whose bytes differ. -/
theorem appendedCrcLeavesZeroResidue : Obligations.AppendedCrcLeavesZeroResidue := by
  unfold Obligations.AppendedCrcLeavesZeroResidue
  exact ⟨crc16_withCrc, fun _ _ _ => crc16_append_two_eq_zero_iff.symm, [0],
    fun h => absurd (crc16_append_two_eq_zero_iff.mp h).1 (by decide)⟩

/-! ### Changes of one byte -/

/-- A change of any one byte changes the accumulator after the sequence. -/
theorem crcFrom_set_ne (acc : Word) {s : List Byte} {k : Nat} (hk : k < s.length) {b : Byte} (hb : b ≠ s[k]) :
    crcFrom acc (s.set k b) ≠ crcFrom acc s := by
  have hsplit : s = s.take k ++ s[k] :: s.drop (k + 1) := by simp
  rw [List.set_eq_take_cons_drop b hk]
  conv_rhs => rw [hsplit]
  rw [crcFrom_append, crcFrom_append]
  exact fun h => hb (crcStep_injective_right _ (crcFrom_injective _ h))

theorem flipBit_ne {s : List Byte} {k j : Nat} (hk : k < s.length) (hj : j < 8) :
    s.getD k 0 ^^^ ((1 : Byte) <<< j) ≠ s[k] := by
  have hbit : (1 : Byte) <<< j ≠ 0 := by decide +revert
  simpa [hk] using hbit

theorem crc16_flipBit_withCrc_ne_zero (s : List Byte) {k j : Nat} (hk : k < (withCrc s).length) (hj : j < 8) :
    crc16 (flipBit (withCrc s) k j) ≠ 0 := by
  rw [← crc16_withCrc s]
  exact crcFrom_set_ne crcInitial hk (flipBit_ne hk hj)

@[simp] theorem flipBit_length (s : List Byte) (k j : Nat) : (flipBit s k j).length = s.length := by
  simp [flipBit]

/-- R103: of a body and two trailing bytes within its length bounds, `decode` compares just those with the CRC. -/
theorem frameDecode_append_two_crcMismatch {body : List Byte} {lo hi : Byte} (hmin : 2 ≤ body.length)
    (hmax : body.length ≤ 254) (h : ¬(lo = lo8 (crc16 body) ∧ hi = hi8 (crc16 body))) :
    frameDecode (body ++ [lo, hi]) = .error .crcMismatch := by
  have h4 : ¬body.length + 2 < 4 := by omega
  have h256 : ¬frameMax < body.length + 2 := by simp only [frameMax]; omega
  simp [frameDecode, h4, h256, not_and_or.mp h]

/-- Within the length bounds of R103, `decode` rejects whatever leaves a residue (R97). -/
theorem frameDecode_crcMismatch_of_residue {raw : List Byte} (hmin : 4 ≤ raw.length) (hmax : raw.length ≤ frameMax)
    (hcrc : crc16 raw ≠ 0) : frameDecode raw = .error .crcMismatch := by
  simp only [frameMax] at hmax
  obtain ⟨lo, hi, htail⟩ : ∃ lo hi, raw.drop (raw.length - 2) = [lo, hi] :=
    List.length_eq_two.mp (by rw [List.length_drop]; omega)
  rw [← List.take_append_drop (raw.length - 2) raw, htail] at hcrc ⊢
  exact frameDecode_append_two_crcMismatch (by rw [List.length_take]; omega) (by rw [List.length_take]; omega)
    (mt crc16_append_two_eq_zero_iff.mpr hcrc)

/-- Settles O3: one changed byte changes the CRC of the whole, which was zero, and `decode` rejects a residue. -/
theorem singleBitChangesAreDetected : Obligations.SingleBitChangesAreDetected := by
  unfold Obligations.SingleBitChangesAreDetected
  refine ⟨fun s k j hk hj => crc16_flipBit_withCrc_ne_zero s hk hj, fun unit fn payload k j hp hk hj => ?_⟩
  have hlen : (flipBit (serialize unit fn payload) k j).length = payload.length + 4 := by simp
  exact frameDecode_crcMismatch_of_residue (by omega) (by simp only [frameMax]; omega)
    (crc16_flipBit_withCrc_ne_zero _ hk hj)

end Sys2Proof.Machine
end

section
/-! The CRC commands over a run (40_crc.md R99): every step but a reset takes its input, answers, and leaves in `crc_acc`
what the command that writes it, if its input is one, makes of the value before. -/

namespace Sys2Proof.Machine

/-! ### No operation but reset takes an input from the list -/

namespace State

variable (s : State)

@[simp] theorem onRxByte_inputs (b : Byte) : (s.onRxByte b).inputs = s.inputs := by
  unfold onRxByte
  split
  · split <;> simp
  · split <;> simp

@[simp] theorem onGap15_inputs : s.onGap15.inputs = s.inputs := by
  unfold onGap15
  split
  · simp
  · split <;> simp

@[simp] theorem onTimeout_inputs : s.onTimeout.inputs = s.inputs := by
  rcases onTimeout_cases s with ⟨_, h⟩ | ⟨_, _, h⟩ | ⟨_, _, h⟩ <;> simp [h]

end State

theorem FrameEffect.inputs_eq {s t : State} (h : FrameEffect s t) : t.inputs = s.inputs := by
  cases h <;> rfl

theorem CommandEffect.inputs_eq {s t : State} (h : CommandEffect s t) : t.inputs = s.inputs := by
  cases h <;> rfl

/-- Every instruction answers a next state (R217), and none takes an input. -/
theorem exec_next_inputs (i : Instr) (s : State) : ∃ t, exec i s = .next t ∧ t.inputs = s.inputs := by
  by_cases hi : frameUnit i = none
  · obtain ⟨t, h, e⟩ := exec_command i s hi
    exact ⟨t, h, e.inputs_eq⟩
  · cases hr : s.cfg.role with
    | responder =>
      obtain ⟨t, h, e⟩ := exec_frame_responder i s hr hi
      exact ⟨t, h, e.inputs_eq⟩
    | requester =>
      obtain ⟨c, h⟩ := exec_frame_requester i s hr hi
      exact ⟨_, h, State.settle_inputs c s⟩

/-! ### A step that takes an input besides reset -/

/-- What a step has to do leaves these inputs: it runs an instruction or is done, in a state with them. -/
inductive Work.Leaves (inputs : List Input) : Work → Prop where
  | run (i : Instr) {t : State} (h : t.inputs = inputs) : Work.Leaves inputs (.run i t)
  | done {t : State} (h : t.inputs = inputs) : Work.Leaves inputs (.done t)

namespace State

variable (s : State)

theorem responderGap35_leaves : s.responderGap35.Leaves s.inputs := by
  rcases responderGap35_cases s with ⟨_, h⟩ | ⟨_, _, h⟩ | ⟨_, i, _, _, h⟩ | ⟨_, e, _, hd, h⟩ <;> rw [h]
  · exact .done rfl
  · exact .done rfl
  · exact .run i rfl
  · exact .done (rejectRequest_effect s.rxClear hd).inputs_eq

theorem requesterGap35_leaves : s.requesterGap35.Leaves s.inputs := by
  rcases requesterGap35_cases s with ⟨_, h⟩ | ⟨_, _, h⟩ | ⟨_, h, _⟩ | ⟨_, _, i, _, _, h⟩ <;> rw [h]
  · exact .done rfl
  · exact .done rfl
  · exact .done (by simp)
  · exact .run i rfl

theorem accept_leaves {e : Input} (he : isReset e = false) : (s.accept e).Leaves s.inputs := by
  cases e with
  | rxByte b => exact .done (onRxByte_inputs s b)
  | gap15 => exact .done (onGap15_inputs s)
  | gap35 =>
    simp only [accept]
    cases s.cfg.role with
    | responder => exact responderGap35_leaves s
    | requester => exact requesterGap35_leaves s
  | timeoutExpire =>
    simp only [accept]
    cases s.cfg.role with
    | responder => exact .done rfl
    | requester => exact .done (onTimeout_inputs s)
  | command p =>
    simp only [accept]
    cases decodeCommand p with
    | ok i => exact .run i rfl
    | error _ => exact .done rfl
  | reset cfg seed => cases he

end State

/-- A step takes the oldest input and answers (R48, R217), whatever it is but a reset (U3). -/
theorem step_next_inputs {s : State} {e : Input} {rest : List Input} (hin : s.inputs = e :: rest)
    (he : isReset e = false) : ∃ t, step s = .next t ∧ t.inputs = rest := by
  have hw : s.fetch.Leaves rest := by
    simp only [State.fetch, hin]
    exact State.accept_leaves { s with inputs := rest } he
  rcases step_cases s with ⟨i, t, hf, h⟩ | ⟨t, hf, h⟩ | ⟨r, hf, _⟩ <;> rw [hf] at hw <;> cases hw
  case run ht => exact h ▸ ht ▸ exec_next_inputs i t
  case done ht => exact ⟨t, h, ht⟩

/-! ### What an instruction and a step leave in `crc_acc` -/

/-- The value an instruction leaves in `crc_acc` (R20, R94, R95). -/
def crcAfter (acc : Word) : Instr → Word
  | .crcInit => crcInitial
  | .crcUpd b => crcStep acc b
  | _ => acc

theorem crcAfter_of_not_crc {i : Instr} (h : isCrcInstr i = false) (acc : Word) : crcAfter acc i = acc := by
  unfold crcAfter
  split
  · cases h
  · cases h
  · rfl

/-- What answers the same with `x` put into `crc_acc` answers with `x` in it. -/
theorem crcAcc_of_mapNext {o : Host.Outcome State Fault Refusal} {x : Word} {t : State}
    (hkeep : o = mapNext (State.withCrcAcc x) o) (ho : o = .next t) : t.crcAcc = x := by
  subst ho
  injection hkeep with h
  exact congrArg State.crcAcc h

theorem crcAcc_of_exec {i : Instr} {s t : State} (h : exec i s = .next t) : t.crcAcc = crcAfter s.crcAcc i := by
  cases hi : isCrcInstr i with
  | true => obtain rfl | ⟨b, rfl⟩ | rfl := (isCrcInstr_iff i).mp hi <;> cases h <;> rfl
  | false =>
    rw [crcAfter_of_not_crc hi]
    exact crcAcc_of_mapNext (exec_withCrcAcc s.crcAcc i s hi) h

/-- The value an input besides reset leaves in `crc_acc`: that of the command it is, if that writes it (R99). -/
def crcAfterInput (acc : Word) (e : Input) : Word :=
  (crcWrite e).elim acc (crcAfter acc)

theorem crcAfterInput_command {p : HostPort} {i : Instr} (h : decodeCommand p = .ok i) (acc : Word) :
    crcAfterInput acc (.command p) = crcAfter acc i := by
  simp only [crcAfterInput, crcWrite, h]
  cases i <;> rfl

theorem crcAfterInput_reserved {p : HostPort} {e : DecodeError} (h : decodeCommand p = .error e) (acc : Word) :
    crcAfterInput acc (.command p) = acc := by
  simp only [crcAfterInput, crcWrite, h, Option.elim_none]

theorem crcAcc_of_step {s t : State} {e : Input} {rest : List Input} (hin : s.inputs = e :: rest)
    (he : isReset e = false) (h : step s = .next t) : t.crcAcc = crcAfterInput s.crcAcc e := by
  have hother (hc : isCrcCommand e = false) : t.crcAcc = s.crcAcc := by
    refine crcAcc_of_mapNext (step_withCrcAcc s.crcAcc s fun e' rest' hin' => ?_) h
    obtain ⟨rfl, -⟩ := List.cons.inj (hin.symm.trans hin')
    exact ⟨hc, he⟩
  cases e with
  | command p =>
    simp only [step, State.fetch, hin, State.accept] at h
    cases hd : decodeCommand p with
    | ok i =>
      simp only [hd] at h
      rw [crcAfterInput_command hd, crcAcc_of_exec h]
    | error x =>
      simp only [hd] at h
      cases h
      rw [crcAfterInput_reserved hd]
      rfl
  | rxByte _ | gap15 | gap35 | timeoutExpire => exact hother rfl
  | reset cfg seed => cases he

/-! ### Runs -/

theorem core_run_succ {s t : State} (h : step s = .next t) (k : Nat) : core.run (k + 1) s = core.run k t := by
  have hs : core.step s = .next t := h
  simp only [Host.Core.run, hs]

/-- A run over inputs without a reset completes, and `crc_acc` has gone through them in order. -/
theorem run_crcAcc (inputs rest : List Input) (hreset : ∀ e ∈ inputs, isReset e = false) (s : State)
    (hin : s.inputs = inputs ++ rest) :
    ∃ t : State, core.run inputs.length s = .next t ∧ t.crcAcc = inputs.foldl crcAfterInput s.crcAcc := by
  induction inputs generalizing s with
  | nil => exact ⟨s, rfl, rfl⟩
  | cons e inputs ih =>
    have he := hreset e List.mem_cons_self
    obtain ⟨u, hstep, hu⟩ := step_next_inputs hin he
    obtain ⟨t, hrun, ht⟩ := ih (fun e' h' => hreset e' (List.mem_cons_of_mem e h')) u hu
    refine ⟨t, (core_run_succ hstep _).trans hrun, ?_⟩
    rw [ht, crcAcc_of_step hin he hstep, List.foldl_cons]

/-- Only the commands that write `crc_acc` count. -/
theorem foldl_crcAfterInput (inputs : List Input) (acc : Word) :
    inputs.foldl crcAfterInput acc = (inputs.filterMap crcWrite).foldl crcAfter acc := by
  rw [List.foldl_filterMap]
  congr
  funext acc e
  simp only [crcAfterInput]
  cases crcWrite e <;> rfl

/-- CRC.INIT and then CRC.UPD of each byte compute `crc16` (R93). -/
theorem foldl_crcAfter_init_upd (bytes : List Byte) (acc : Word) :
    (Instr.crcInit :: bytes.map .crcUpd).foldl crcAfter acc = crc16 bytes := by
  rw [List.foldl_cons, List.foldl_map]
  rfl

/-- Settles O5: over the run `crc_acc` goes through the commands that write it, which are those of `crc16 bytes`. -/
theorem crcCommandsComputeCrc16 : Obligations.CrcCommandsComputeCrc16 := by
  unfold Obligations.CrcCommandsComputeCrc16
  intro s inputs rest bytes hin hreset hwrites
  obtain ⟨t, hrun, ht⟩ := run_crcAcc inputs rest (by simpa using hreset) s hin
  have hcrc : t.crcAcc = crc16 bytes := by
    rw [ht, foldl_crcAfterInput, hwrites, foldl_crcAfter_init_upd]
  exact ⟨t, hrun, hcrc, hcrc ▸ rfl⟩

end Sys2Proof.Machine
end

section
/-! The framer (41_framer.md): `decode` reads back `encode` and nothing else (R105), FRM.ENC and FRM.DEC by their OPSELs
(R100, R103), and the receive events against the window form (R107 to R110). -/

namespace Sys2Proof.Machine

/-! ### encode and decode (R100, R103, R105) -/

theorem frameDecode_tooShort {raw : List Byte} (h : raw.length < 4) : frameDecode raw = .error .frameTooShort := by
  simp [frameDecode, h]

theorem frameDecode_tooLong {raw : List Byte} (h : frameMax < raw.length) : frameDecode raw = .error .frameTooLong := by
  have h4 : ¬raw.length < 4 := by simp only [frameMax] at h; omega
  simp [frameDecode, h4, h]

theorem frameDecode_serialize {payload : List Byte} (h : payload.length ≤ maxPayload) (unit fn : Byte) :
    frameDecode (serialize unit fn payload) =
      .ok { unit := unit, fn := fn, payload := payload, crc := crc16 (unit :: fn :: payload) } := by
  have hmax : ¬frameMax < payload.length + 4 := by simp only [maxPayload, frameMax] at *; omega
  simp [frameDecode, serialize, withCrc, hmax]

/-- Four bytes or more have the layout of R60. -/
theorem exists_layout_of_four_le_length {raw : List Byte} (h : 4 ≤ raw.length) :
    ∃ (unit fn : Byte) (payload : List Byte) (lo hi : Byte), raw = unit :: fn :: payload ++ [lo, hi] := by
  match raw, h with
  | unit :: fn :: rest, h =>
    simp only [List.length_cons] at h
    obtain ⟨lo, hi, htail⟩ : ∃ lo hi, rest.drop (rest.length - 2) = [lo, hi] :=
      List.length_eq_two.mp (by rw [List.length_drop]; omega)
    exact ⟨unit, fn, rest.take (rest.length - 2), lo, hi, by rw [← htail]; simp⟩

/-- The only bytes that decode are those `encode` lays out, since any other pair of trailing bytes is no CRC (R105). -/
theorem eq_serialize_of_frameDecode_ok {raw : List Byte} {f : Frame} (h : frameDecode raw = .ok f) :
    f.payload.length ≤ maxPayload ∧ raw = serialize f.unit f.fn f.payload := by
  obtain ⟨hmin, hmax, -⟩ := frameDecode_ok h
  obtain ⟨unit, fn, payload, lo, hi, rfl⟩ := exists_layout_of_four_le_length hmin
  have hlen : payload.length ≤ 252 := by
    simp only [frameMax, List.length_append, List.length_cons] at hmax
    omega
  by_cases hcrc : lo = lo8 (crc16 (unit :: fn :: payload)) ∧ hi = hi8 (crc16 (unit :: fn :: payload))
  · obtain ⟨rfl, rfl⟩ := hcrc
    cases (frameDecode_serialize hlen unit fn).symm.trans h
    exact ⟨hlen, rfl⟩
  · rw [frameDecode_append_two_crcMismatch (by simp) (by simp only [List.length_cons]; omega) hcrc] at h
    cases h

/-- Settles O9: `decode` of a serialized frame reads its fields, and only serialized frames decode. -/
theorem frameEncodeDecodeInverse : Obligations.FrameEncodeDecodeInverse := by
  unfold Obligations.FrameEncodeDecodeInverse
  refine ⟨fun unit fn payload h => ?_, fun raw f h => ?_⟩
  · exact ⟨_, _, frameEncode_ok h unit fn, frameDecode_serialize h unit fn, rfl, rfl, rfl⟩
  · obtain ⟨hlen, hraw⟩ := eq_serialize_of_frameDecode_ok h
    rw [frameEncode_ok hlen, ← hraw]

/-! ### FRM.ENC and FRM.DEC -/

/-- R100, R102: FRM.ENC returns what `encode` gives and writes nothing else. -/
theorem exec_frmEnc (unit fn : Byte) (payload : List Byte) (s : State) :
    exec (.frmEnc unit fn payload) s =
      .next { s with outputs := s.outputs ++ [.result ((frameEncode unit fn payload).map .bytes)] } := rfl

/-- R102, R103: FRM.DEC returns the frame that `decode` gives, or its error, and writes nothing else. -/
theorem exec_frmDec (raw : List Byte) (s : State) :
    exec (.frmDec raw) s = .next { s with
      outputs := s.outputs ++ [.result ((frameDecode raw).map fun f => .frame f.unit f.fn f.payload)] } := rfl

/-- Settles O7: the two cases of `encode`'s length check. -/
theorem frmEncResult : Obligations.FrmEncResult := by
  unfold Obligations.FrmEncResult
  refine ⟨fun unit fn payload s h => ?_, fun unit fn payload s h => ?_, fun _ _ _ => rfl, fun unit fn => ?_,
    by decide +kernel⟩
  · rw [exec_frmEnc, frameEncode_ok h]
    rfl
  · rw [exec_frmEnc, frameEncode_too_large h]
    rfl
  · exact ⟨serialize_length unit fn [], by rw [serialize_length, List.length_replicate]⟩

/-- Settles O8: the ranges of the length, then whether the trailing bytes are the CRC of those before. -/
theorem frmDecResult : Obligations.FrmDecResult := by
  unfold Obligations.FrmDecResult
  refine ⟨fun raw s h => ?_, fun raw s h => ?_, fun body lo hi s hmin hmax h => ?_, fun unit fn payload s h => ?_,
    fun _ => rfl, by decide +kernel, by decide +kernel⟩
  · rw [exec_frmDec, frameDecode_tooShort h]
    rfl
  · rw [exec_frmDec, frameDecode_tooLong h]
    rfl
  · rw [exec_frmDec, frameDecode_append_two_crcMismatch hmin hmax h]
    rfl
  · refine ⟨frameDecode_serialize h unit fn, ?_⟩
    rw [exec_frmDec, frameDecode_serialize h]
    rfl

/-! ### One receive event (R107, R108, R162, R188) -/

namespace State

variable {s : State}

theorem rxPush_of_gaperr (h : s.gaperr = true) (b : Byte) : s.rxPush b = s := by
  simp [rxPush, h]

theorem rxPush_of_full (hg : s.gaperr = false) (h : frameMax ≤ s.rxlen) (b : Byte) :
    s.rxPush b = { s with rxovf := true } := by
  simp [rxPush, hg, h]

theorem rxPush_of_room (hg : s.gaperr = false) (h : s.rxlen < frameMax) (b : Byte) :
    s.rxPush b = { s with rxbuf := s.rxbuf.setIfInBounds s.rxlen b, rxlen := s.rxlen + 1 } := by
  simp [rxPush, hg, Nat.not_le.mpr h]

theorem rxGap15_of_received (h : 0 < s.rxlen) : s.rxGap15 = { s with gaperr := true } := by
  simp [rxGap15, h]

theorem rxGap15_of_empty (h : s.rxlen = 0) : s.rxGap15 = s := by
  simp [rxGap15, h]

/-- R162: a byte makes an Idle Responder FrameReceiving. -/
def rstateOnByte (s : State) : RState :=
  if s.cfg.role = .responder ∧ s.rstate = .idle then .frameReceiving else s.rstate

/-- R162, R188: where the receive path listens, a byte moves `rstate` and is pushed. -/
theorem onRxByte_of_listening (h : s.cfg.role = .responder ∨ s.qstate = .awaitingResponse) (b : Byte) :
    s.onRxByte b = ({ s with rstate := s.rstateOnByte } : State).rxPush b := by
  cases hr : s.cfg.role with
  | responder => by_cases hi : s.rstate = .idle <;> simp [onRxByte, rstateOnByte, hr, hi]
  | requester =>
    have hq : s.qstate = .awaitingResponse := by simpa [hr] using h
    have hstate : s.rstateOnByte = s.rstate := by simp [rstateOnByte, hr]
    have hpush : s.onRxByte b = s.rxPush b := by simp [onRxByte, hr, hq]
    rw [hpush, hstate]

theorem onGap15_of_listening (h : s.cfg.role = .responder ∨ s.qstate = .awaitingResponse) :
    s.onGap15 = s.rxGap15 := by
  cases hr : s.cfg.role with
  | responder => simp [onGap15, hr]
  | requester =>
    have hq : s.qstate = .awaitingResponse := by simpa [hr] using h
    simp [onGap15, hr, hq]

end State

theorem step_rxByte_of_listening {s : State} {b : Byte} {rest : List Input} (hin : s.inputs = .rxByte b :: rest)
    (h : s.cfg.role = .responder ∨ s.qstate = .awaitingResponse) :
    step s = .next (({ s with inputs := rest, rstate := s.rstateOnByte } : State).rxPush b) := by
  simp only [step, State.fetch, hin, State.accept]
  exact congrArg _ (State.onRxByte_of_listening (s := { s with inputs := rest }) h b)

theorem step_gap15_of_listening {s : State} {rest : List Input} (hin : s.inputs = .gap15 :: rest)
    (h : s.cfg.role = .responder ∨ s.qstate = .awaitingResponse) :
    step s = .next ({ s with inputs := rest } : State).rxGap15 := by
  simp only [step, State.fetch, hin, State.accept]
  exact congrArg _ (State.onGap15_of_listening (s := { s with inputs := rest }) h)

/-- Settles O11: the step pushes the byte, or marks the gap, and the cases are those of `rx_push` and `rx_gap15`. -/
theorem receiveEventsAreStored : Obligations.ReceiveEventsAreStored := by
  unfold Obligations.ReceiveEventsAreStored
  refine fun s rest hlisten _ => ⟨fun b hin => ?_, fun hin => ?_⟩
  · rw [step_rxByte_of_listening hin hlisten]
    refine ⟨fun hg => ?_, fun hg hfull => ?_, fun hg hroom => ⟨s.rxbuf.setIfInBounds s.rxlen b, ?_, ?_⟩⟩
    · exact congrArg _ (State.rxPush_of_gaperr (by exact hg) b)
    · exact congrArg _ (State.rxPush_of_full (by exact hg) (by exact hfull.ge) b)
    · exact congrArg _ (State.rxPush_of_room (by exact hg) (by exact hroom) b)
    · exact State.window_push s b hroom
  · rw [step_gap15_of_listening hin hlisten]
    exact ⟨fun hl => congrArg _ (State.rxGap15_of_received hl), fun hl => congrArg _ (State.rxGap15_of_empty hl)⟩

/-! ### The receive events of a window (R110) -/

namespace State

/-- What the receive path holds when `bytes` have been received without a gap: the first 256 of them, and whether there
were more (R107). -/
structure Holds (s : State) (bytes : List Byte) : Prop where
  no_gap : s.gaperr = false
  length : s.rxlen = min bytes.length frameMax
  window : s.window = bytes.take frameMax
  ovf    : s.rxovf = decide (frameMax < bytes.length)

variable {s : State} {bytes : List Byte}

theorem holds_nil_of_clear (h0 : s.rxlen = 0) (hg : s.gaperr = false) (ho : s.rxovf = false) : s.Holds [] :=
  ⟨hg, h0, by simp [State.window, h0], ho⟩

theorem Holds.rxlen_pos (h : s.Holds bytes) (hne : bytes ≠ []) : 0 < s.rxlen := by
  have := List.length_pos_iff.mpr hne
  simp only [h.length, frameMax]
  omega

/-- A byte beyond the 256th is not stored but remembered as an overflow (R107). -/
theorem Holds.rxPush (h : s.Holds bytes) (b : Byte) : (s.rxPush b).Holds (bytes ++ [b]) := by
  obtain ⟨hg, hl, hw, ho⟩ := h
  rcases Nat.lt_or_ge bytes.length frameMax with hlt | hge
  · have hroom : s.rxlen < frameMax := by omega
    rw [rxPush_of_room hg hroom]
    refine ⟨hg, ?_, ?_, ?_⟩
    · simp only [List.length_append, List.length_singleton]
      omega
    · rw [window_push s b hroom, hw, List.take_of_length_le hlt.le, List.take_of_length_le (by simpa using hlt)]
    · rw [ho, List.length_append, List.length_singleton, decide_eq_decide]
      omega
  · rw [rxPush_of_full hg (by omega)]
    refine ⟨hg, ?_, ?_, ?_⟩
    · simp only [List.length_append]
      omega
    · rw [List.take_append_of_le_length hge]
      exact hw
    · simp only [List.length_append, List.length_singleton]
      exact (decide_eq_true (by omega)).symm

/-- Without a gap the window closes to the outcome of its bytes (R109, R110). -/
theorem Holds.rxOutcome (h : s.Holds bytes) (hne : bytes ≠ []) : s.rxOutcome = windowOutcome bytes false := by
  have h0 : s.rxlen ≠ 0 := (h.rxlen_pos hne).ne'
  obtain ⟨hg, -, hw, ho⟩ := h
  by_cases hlen : frameMax < bytes.length
  · simp [State.rxOutcome, windowOutcome, h0, hg, ho, hlen]
  · rw [List.take_of_length_le (Nat.not_lt.mp hlen)] at hw
    cases hd : frameDecode bytes <;> simp [State.rxOutcome, windowOutcome, h0, hg, ho, hlen, hw, hd]

theorem receive_byte (b : Byte) (events : List (Option Byte)) (s : State) :
    s.receive (some b :: events) = (s.rxPush b).receive events := rfl

theorem receive_gap (events : List (Option Byte)) (s : State) :
    s.receive (none :: events) = s.rxGap15.receive events := rfl

/-- A gap inside a frame decides the window: nothing after it changes the receive path (R107, R108). -/
theorem receive_of_gaperr (hg : s.gaperr = true) (hl : 0 < s.rxlen) (events : List (Option Byte)) :
    s.receive events = s := by
  induction events with
  | nil => rfl
  | cons e events ih =>
    cases e with
    | none => rw [receive_gap, rxGap15_of_received hl, ← hg, ih]
    | some b => rw [receive_byte, rxPush_of_gaperr hg, ih]

/-- Once a byte is received every gap is inside the window. -/
theorem rxOutcome_receive_of_holds (h : s.Holds bytes) (hne : bytes ≠ []) (events : List (Option Byte)) :
    (s.receive events).rxOutcome = windowOutcome (bytes ++ events.filterMap id) (events.any Option.isNone) := by
  induction events generalizing s bytes with
  | nil => simpa [receive] using h.rxOutcome hne
  | cons e events ih =>
    cases e with
    | none =>
      have hl := h.rxlen_pos hne
      rw [receive_gap, receive_of_gaperr (by simp [hl]) (by simpa using hl)]
      simp [State.rxOutcome, windowOutcome, hl.ne', hl]
    | some b =>
      rw [receive_byte, ih (h.rxPush b) (by simp)]
      simp

/-- From a clear receive path the gaps before the first byte are ignored (R108). -/
theorem rxOutcome_receive_of_clear (h : s.Holds []) (events : List (Option Byte))
    (hne : events.filterMap id ≠ []) :
    (s.receive events).rxOutcome = windowOutcome (events.filterMap id) (gapInside events) := by
  induction events with
  | nil => exact absurd rfl hne
  | cons e events ih =>
    cases e with
    | none =>
      rw [receive_gap, rxGap15_of_empty h.length]
      exact ih hne
    | some b =>
      rw [receive_byte]
      exact rxOutcome_receive_of_holds (h.rxPush b) (by simp) events

end State

/-- Settles O10: the gaps before the first byte are ignored, and the bytes up to a gap inside the window are held. -/
theorem eventsAgreeWithWindowForm : Obligations.EventsAgreeWithWindowForm := by
  unfold Obligations.EventsAgreeWithWindowForm
  exact fun s events h0 hg ho hne =>
    State.rxOutcome_receive_of_clear (State.holds_nil_of_clear h0 hg ho) events hne

end Sys2Proof.Machine
end

section
/-! The host's path to the register file (42_regfile.md R123): what a range read answers, by `valid(start, count)`, and
RS.READ by its OPSEL. -/

namespace Sys2Proof.Machine

namespace State

variable {s : State} {start count : Nat}

/-- R123: in a seeded register file every address of a valid range has a word, and the range read returns them. -/
theorem readRegs_of_validRange (hr : s.cfg.role = .responder) (hseed : seededBy s.cfg s.hr = true)
    (hv : validRange s.cfg start count = true) :
    ∃ ws : List Word, s.readRegs start count = .ok ws ∧ ws.length = count ∧
      ∀ i (h : i < ws.length), s.hr.read (start + i) = some ws[i] := by
  refine ⟨_, (readRegs_seeded hr hseed start count).trans (if_pos hv), by simp, fun i hi => ?_⟩
  have hcount : i < count := by simpa using hi
  have hword : (s.hr.read (start + i)).isSome = true :=
    (seeded_isSome hr hseed _).trans (((validRange_iff _ _ _).mp hv).2 i hcount)
  obtain ⟨w, hw⟩ := Option.isSome_iff_exists.mp hword
  simp [hw]

/-- R123: of any other range no word is returned, in any register file. -/
theorem readRegs_of_not_validRange (hv : validRange s.cfg start count = false) :
    s.readRegs start count = .error .illegalDataAddress := by
  simp [readRegs, hv]

end State

/-- R123: RS.READ at a Responder puts out what the range read answers and changes nothing else. -/
theorem exec_rsRead {s : State} (hr : s.cfg.role = .responder) (start count : Word) :
    exec (.rsRead start count) s = .next { s with
      outputs := s.outputs ++ [.result ((s.readRegs start.toNat count.toNat).map .words)] } :=
  congrArg _ (State.inRole_own hr _)

/-- Settles O23: the command puts out the range read's answer, whose two cases are those of the validation. -/
theorem rsReadResult : Obligations.RsReadResult := by
  unfold Obligations.RsReadResult
  refine ⟨fun start count s hinv hr hv => ?_, fun start count s hr hv => ?_, fun _ _ => rfl⟩
  · obtain ⟨ws, hread, hlen, hwords⟩ := State.readRegs_of_validRange hr hinv.seeded hv
    refine ⟨ws, hlen, hwords, ?_⟩
    rw [exec_rsRead hr, hread]
    rfl
  · rw [exec_rsRead hr, State.readRegs_of_not_validRange hv]
    rfl

end Sys2Proof.Machine
end

section
/-! Float patterns (43_codec.md R146): a pattern from its sign and its magnitude's pattern, and the units of a
magnitude. -/

namespace Sys2Proof.Machine

/-! ### The fields of a pattern -/

/-- What the arithmetic asks of a format: a fraction field, and exponents enough for the half unit in the last place that
stands in the overflow bound (R145) to be an integer. -/
structure FloatFormat.Regular (fmt : FloatFormat) : Prop where
  frac_pos : 0 < fmt.fracBits
  exp_room : fmt.fracBits + 2 ≤ 2 ^ (fmt.expBits - 1)

theorem binary32_regular : binary32.Regular := ⟨by decide, by decide⟩
theorem binary64_regular : binary64.Regular := ⟨by decide, by decide⟩

theorem FloatFormat.Regular.two_pow_expBits {fmt : FloatFormat} (h : fmt.Regular) :
    2 ^ fmt.expBits = 2 * 2 ^ (fmt.expBits - 1) := by
  obtain ⟨-, hroom⟩ := h
  have hpos : fmt.expBits ≠ 0 := fun h0 => by simp [h0] at hroom
  rw [← pow_succ', Nat.sub_one_add_one hpos]

theorem infinityPattern_lt (fmt : FloatFormat) : infinityPattern fmt < 2 ^ (fmt.fracBits + fmt.expBits) := by
  rw [infinityPattern, expAllOnes, pow_add, mul_comm]
  exact Nat.mul_lt_mul_of_pos_left (Nat.sub_lt (Nat.two_pow_pos _) Nat.one_pos) (Nat.two_pow_pos _)

section
variable (fmt : FloatFormat) (sign : Bool) {m : Nat}

theorem signedPattern_lt (hm : m < 2 ^ (fmt.fracBits + fmt.expBits)) :
    signedPattern fmt sign m < 2 ^ (fmt.fracBits + fmt.expBits + 1) := by
  cases sign <;> simp only [signedPattern, pow_succ] <;> simp <;> omega

@[simp] theorem floatFrac_signedPattern : floatFrac fmt (signedPattern fmt sign m) = m % 2 ^ fmt.fracBits := by
  cases sign <;> simp [floatFrac, signedPattern, pow_add]

theorem floatExp_signedPattern (hm : m < 2 ^ (fmt.fracBits + fmt.expBits)) :
    floatExp fmt (signedPattern fmt sign m) = m / 2 ^ fmt.fracBits := by
  have hexp : m / 2 ^ fmt.fracBits < 2 ^ fmt.expBits := Nat.div_lt_of_lt_mul (by rwa [← pow_add])
  cases sign with
  | false => simpa [floatExp, signedPattern] using Nat.mod_eq_of_lt hexp
  | true =>
    simp [floatExp, signedPattern, pow_add, Nat.mul_add_div (Nat.two_pow_pos _), Nat.mod_eq_of_lt hexp]

theorem floatSign_signedPattern (hm : m < 2 ^ (fmt.fracBits + fmt.expBits)) :
    floatSign fmt (signedPattern fmt sign m) = sign := by
  cases sign with
  | false => simpa [floatSign, signedPattern] using Nat.testBit_lt_two_pow hm
  | true => simp [floatSign, signedPattern, Nat.testBit_two_pow_add_eq, Nat.testBit_lt_two_pow hm]

/-- A pattern of the format's width is that of its sign and of its other bits. -/
theorem signedPattern_floatSign_mod {p : Nat} (hp : p < 2 ^ (fmt.fracBits + fmt.expBits + 1)) :
    signedPattern fmt (floatSign fmt p) (p % 2 ^ (fmt.fracBits + fmt.expBits)) = p := by
  have hdiv : p / 2 ^ (fmt.fracBits + fmt.expBits) < 2 := Nat.div_lt_of_lt_mul (by rwa [← pow_succ])
  have hsplit := Nat.div_add_mod p (2 ^ (fmt.fracBits + fmt.expBits))
  rw [floatSign, Nat.testBit_eq_decide_div_mod_eq, Nat.mod_eq_of_lt hdiv, signedPattern]
  obtain h0 | h1 := Nat.le_one_iff_eq_zero_or_eq_one.mp (Nat.lt_succ_iff.mp hdiv)
  · simpa [h0] using hsplit
  · simpa [h1] using hsplit

/-- A pattern is finite just when its magnitude's pattern is below that of infinity. -/
theorem isNonfinite_signedPattern_eq_false_iff (hm : m < 2 ^ (fmt.fracBits + fmt.expBits)) :
    isNonfinite fmt (signedPattern fmt sign m) = false ↔ m < infinityPattern fmt := by
  have hexp : m / 2 ^ fmt.fracBits < 2 ^ fmt.expBits := Nat.div_lt_of_lt_mul (by rwa [← pow_add])
  rw [isNonfinite, floatExp_signedPattern fmt sign hm, decide_eq_false_iff_not, infinityPattern,
    ← Nat.div_lt_iff_lt_mul (Nat.two_pow_pos _), expAllOnes]
  omega

/-- Every finite pattern is a sign and a magnitude's pattern below that of infinity. -/
theorem isFinitePattern_iff {p : Nat} :
    isFinitePattern fmt p ↔ ∃ sign, ∃ m < infinityPattern fmt, p = signedPattern fmt sign m := by
  constructor
  · rintro ⟨hlt, hfin⟩
    rw [← signedPattern_floatSign_mod fmt hlt,
      isNonfinite_signedPattern_eq_false_iff _ _ (Nat.mod_lt _ (Nat.two_pow_pos _))] at hfin
    exact ⟨_, _, hfin, (signedPattern_floatSign_mod fmt hlt).symm⟩
  · rintro ⟨sign, m, hm, rfl⟩
    have hm' := hm.trans (infinityPattern_lt fmt)
    exact ⟨signedPattern_lt fmt sign hm', (isNonfinite_signedPattern_eq_false_iff fmt sign hm').mpr hm⟩

theorem signedPattern_mod_two (h : fmt.Regular) : signedPattern fmt sign m % 2 = m % 2 := by
  have hdvd : 2 ∣ 2 ^ (fmt.fracBits + fmt.expBits) := dvd_pow_self 2 (by have := h.frac_pos; omega)
  cases sign <;> simp only [signedPattern] <;> simp; omega

end

/-! ### The units of a magnitude, the exponent field having no end -/

/-- The units of the pattern `m` of a magnitude (R146), also beyond the largest exponent of the format. -/
def magnitudeUnits (fmt : FloatFormat) (m : Nat) : Nat :=
  if m / 2 ^ fmt.fracBits = 0 then m % 2 ^ fmt.fracBits
  else (2 ^ fmt.fracBits + m % 2 ^ fmt.fracBits) * 2 ^ (m / 2 ^ fmt.fracBits - 1)

theorem floatUnits_signedPattern (fmt : FloatFormat) (sign : Bool) {m : Nat}
    (hm : m < 2 ^ (fmt.fracBits + fmt.expBits)) :
    floatUnits fmt (signedPattern fmt sign m) = magnitudeUnits fmt m := by
  simp only [floatUnits, floatExp_signedPattern fmt sign hm, floatFrac_signedPattern, magnitudeUnits]

theorem floatValue_signedPattern (fmt : FloatFormat) (sign : Bool) {m : Nat}
    (hm : m < 2 ^ (fmt.fracBits + fmt.expBits)) :
    floatValue fmt (signedPattern fmt sign m) =
      (if sign then -1 else 1) * ((magnitudeUnits fmt m : ℚ) / (unitsPerOne fmt : ℚ)) := by
  rw [floatValue, floatSign_signedPattern fmt sign hm, floatUnits_signedPattern fmt sign hm]

section
variable (fmt : FloatFormat)

/-- A significand and how far the exponent stands above the subnormals' make a pattern; the significand that is the next
power of two has carried into the exponent field. -/
theorem magnitudeUnits_shift_add {shift sig : Nat} (hlow : shift = 0 ∨ 2 ^ fmt.fracBits ≤ sig)
    (hhigh : sig ≤ 2 ^ (fmt.fracBits + 1)) :
    magnitudeUnits fmt (shift * 2 ^ fmt.fracBits + sig) = sig * 2 ^ shift := by
  have hF : 0 < 2 ^ fmt.fracBits := Nat.two_pow_pos _
  rw [pow_succ] at hhigh
  rw [magnitudeUnits, Nat.mul_add_mod', mul_comm shift, Nat.mul_add_div hF]
  rcases lt_or_ge sig (2 ^ fmt.fracBits) with hsub | hnorm
  · have h0 : shift = 0 := hlow.resolve_right (by omega)
    simp [h0, Nat.div_eq_of_lt hsub, Nat.mod_eq_of_lt hsub]
  rcases hhigh.lt_or_eq with hlt | rfl
  · have hdiv : sig / 2 ^ fmt.fracBits = 1 := Nat.div_eq_of_lt_le (by omega) (by omega)
    have hsplit := Nat.div_add_mod sig (2 ^ fmt.fracBits)
    rw [hdiv, mul_one] at hsplit
    simp [hdiv, hsplit]
  · simp only [Nat.mul_mod_right, Nat.mul_div_cancel_left 2 hF, Nat.add_one_ne_zero, if_false, add_zero,
      show shift + 2 - 1 = shift + 1 from rfl, pow_succ]
    ring

/-- Every pattern of a magnitude has such a significand, below the next power of two. -/
theorem exists_significand (m : Nat) : ∃ shift sig, m = shift * 2 ^ fmt.fracBits + sig ∧
    (shift = 0 ∨ 2 ^ fmt.fracBits ≤ sig) ∧ sig < 2 ^ (fmt.fracBits + 1) := by
  have hsplit := Nat.div_add_mod' m (2 ^ fmt.fracBits)
  have hmod := Nat.mod_lt m (Nat.two_pow_pos fmt.fracBits)
  cases hdiv : m / 2 ^ fmt.fracBits with
  | zero => exact ⟨0, m, by simp, .inl rfl, by rw [hdiv] at hsplit; rw [pow_succ]; omega⟩
  | succ shift =>
    rw [hdiv, Nat.succ_mul] at hsplit
    exact ⟨shift, 2 ^ fmt.fracBits + m % 2 ^ fmt.fracBits, by omega, .inr (by omega), by rw [pow_succ]; omega⟩

theorem magnitudeUnits_strictMono : StrictMono (magnitudeUnits fmt) := by
  refine strictMono_nat_of_lt_succ fun m => ?_
  obtain ⟨shift, sig, rfl, hlow, hhigh⟩ := exists_significand fmt m
  rw [add_assoc, magnitudeUnits_shift_add fmt hlow hhigh.le, magnitudeUnits_shift_add fmt (by omega) hhigh]
  exact Nat.mul_lt_mul_of_pos_right (Nat.lt_succ_self sig) (Nat.two_pow_pos shift)

@[simp] theorem magnitudeUnits_zero : magnitudeUnits fmt 0 = 0 := by simp [magnitudeUnits]

/-- A number with at most `fracBits + 1` significant bits is a whole number of units exactly. -/
theorem exists_magnitudeUnits_eq {k : Nat} (hk : k < 2 ^ (fmt.fracBits + 1)) (t : Nat) :
    ∃ m, magnitudeUnits fmt m = k * 2 ^ t := by
  induction t generalizing k with
  | zero => exact ⟨_, magnitudeUnits_shift_add fmt (.inl rfl) hk.le⟩
  | succ t ih =>
    rcases lt_or_ge k (2 ^ fmt.fracBits) with hsub | hnorm
    · obtain ⟨m, hm⟩ := ih (k := 2 * k) (by rw [pow_succ]; omega)
      exact ⟨m, by rw [hm, pow_succ]; ring⟩
    · exact ⟨_, magnitudeUnits_shift_add fmt (.inr hnorm) hk.le⟩

end

end Sys2Proof.Machine
end

section
/-! Rounding (43_codec.md R137, R140, R145): the rounded magnitude of a rational is the nearest pattern, at a tie the even
one, and beyond the overflow bound infinity's. -/

namespace Sys2Proof.Machine

/-! ### Rounding to nearest, ties to even -/

/-- The quotient is rounded down when the remainder is at most half a divisor, and up when it is at least that; to an
even integer when it is just that. -/
theorem roundHalfEven_cases (num den : Nat) :
    (roundHalfEven num den = num / den ∧ 2 * (num % den) ≤ den ∧ (2 * (num % den) = den → num / den % 2 = 0)) ∨
    (roundHalfEven num den = num / den + 1 ∧ den ≤ 2 * (num % den) ∧
      (2 * (num % den) = den → (num / den + 1) % 2 = 0)) := by
  unfold roundHalfEven
  dsimp only
  generalize num / den = q
  generalize num % den = r
  split_ifs with hdown hup
  · exact .inl ⟨rfl, by omega, by omega⟩
  · exact .inr ⟨rfl, by omega, by omega⟩
  · obtain heven | hodd := Nat.mod_two_eq_zero_or_one q
    · exact .inl ⟨by omega, by omega, fun _ => heven⟩
    · exact .inr ⟨by omega, by omega, fun _ => by omega⟩

/-- The rounded quotient is at most half a divisor off, and even when it is exactly that. -/
theorem two_mul_abs_sub_roundHalfEven_le (num : Nat) {den : Nat} (hden : 0 < den) :
    2 * |(num : ℤ) - roundHalfEven num den * den| ≤ den ∧
    (2 * |(num : ℤ) - roundHalfEven num den * den| = den → roundHalfEven num den % 2 = 0) := by
  have hsplit : (num : ℤ) = (num / den : ℕ) * den + (num % den : ℕ) := mod_cast (Nat.div_add_mod' num den).symm
  have hmod := Nat.mod_lt num hden
  rcases roundHalfEven_cases num den with ⟨hround, hle, htie⟩ | ⟨hround, hle, htie⟩
  · have hoff : |(num : ℤ) - (num / den : ℕ) * den| = (num % den : ℕ) := by
      rw [hsplit, add_sub_cancel_left, Nat.abs_cast]
    rw [hround, hoff]
    exact ⟨by omega, fun h => htie (by omega)⟩
  · have hoff : |(num : ℤ) - (num / den + 1 : ℕ) * den| = den - (num % den : ℕ) := by
      rw [abs_sub_comm, hsplit, abs_of_nonneg] <;> push_cast <;> linarith
    rw [hround, hoff]
    exact ⟨by omega, fun h => htie (by omega)⟩

theorem le_roundHalfEven {num den k : Nat} (hden : 0 < den) (h : k * den ≤ num) : k ≤ roundHalfEven num den := by
  have hk : k ≤ num / den := (Nat.le_div_iff_mul_le hden).mpr h
  rcases roundHalfEven_cases num den with ⟨hround, -⟩ | ⟨hround, -⟩ <;> omega

theorem roundHalfEven_le {num den k : Nat} (h : num < k * den) : roundHalfEven num den ≤ k := by
  have hk : num / den < k := Nat.div_lt_of_lt_mul (by rwa [mul_comm] at h)
  rcases roundHalfEven_cases num den with ⟨hround, -⟩ | ⟨hround, -⟩ <;> omega

/-- A multiple of `u` at most half of it away from `y` is the nearest one, and when exactly half, one of two. -/
theorem abs_sub_multiple_le {y u : ℚ} {a : Nat} (hhalf : 2 * |y - a * u| ≤ u) (htie : 2 * |y - a * u| = u → a % 2 = 0)
    (k : Nat) : |y - a * u| ≤ |y - k * u| ∧ (|y - a * u| = |y - k * u| → k = a ∨ a % 2 = 0) := by
  rcases eq_or_ne k a with rfl | hne
  · exact ⟨le_rfl, fun _ => .inl rfl⟩
  have hu : 0 ≤ u := (by positivity : 0 ≤ 2 * |y - a * u|).trans hhalf
  have hone : (1 : ℚ) ≤ |(k : ℚ) - a| := by
    have : (1 : ℤ) ≤ |(k : ℤ) - a| := Int.one_le_abs (by omega)
    exact_mod_cast this
  have hgap : u ≤ |y - a * u| + |y - k * u| :=
    calc u ≤ |(k : ℚ) - a| * u := le_mul_of_one_le_left hu hone
      _ = |(y - a * u) - (y - k * u)| := by rw [← abs_of_nonneg hu, ← abs_mul, abs_of_nonneg hu]; ring_nf
      _ ≤ _ := abs_sub _ _
  exact ⟨by linarith, fun heq => .inr (htie (by linarith))⟩

/-- `r` is the pattern of a magnitude nearest to `y` units, the exponent field having no end; at a tie the even one. -/
def NearestMagnitude (fmt : FloatFormat) (y : ℚ) (r : Nat) : Prop :=
  ∀ m : Nat, |y - magnitudeUnits fmt r| ≤ |y - magnitudeUnits fmt m| ∧
    (|y - magnitudeUnits fmt r| = |y - magnitudeUnits fmt m| → m = r ∨ r % 2 = 0)

section
variable {fmt : FloatFormat}

/-- A significand that is `y` rounded at a place at or above the subnormals', and is normal where it is above: no pattern
with a lower place comes nearer. -/
theorem nearestMagnitude_shift_add (hreg : fmt.Regular) {y : ℚ} {shift sig : Nat}
    (hhalf : 2 * |y - sig * (2 : ℚ) ^ shift| ≤ 2 ^ shift)
    (htie : 2 * |y - sig * (2 : ℚ) ^ shift| = 2 ^ shift → sig % 2 = 0)
    (hlow : shift = 0 ∨ 2 ^ fmt.fracBits ≤ sig ∧ (2 : ℚ) ^ fmt.fracBits * 2 ^ shift ≤ y)
    (hhigh : sig ≤ 2 ^ (fmt.fracBits + 1)) :
    NearestMagnitude fmt y (shift * 2 ^ fmt.fracBits + sig) := by
  have hunits := magnitudeUnits_shift_add fmt (hlow.imp_right And.left) hhigh
  have hparity : (shift * 2 ^ fmt.fracBits + sig) % 2 = sig % 2 := by
    have hdvd : 2 ∣ shift * 2 ^ fmt.fracBits := (dvd_pow_self 2 hreg.frac_pos.ne').mul_left _
    omega
  have hsig (k : Nat) := abs_sub_multiple_le hhalf htie k
  intro m
  obtain ⟨t, k, rfl, hk, hlt⟩ := exists_significand fmt m
  rw [hunits, magnitudeUnits_shift_add fmt hk hlt.le, hparity]
  push_cast
  rcases le_or_gt shift t with hle | hgt
  · -- a multiple of the place of `sig`
    have hmul : (k : ℚ) * 2 ^ t = (k * 2 ^ (t - shift) : ℕ) * 2 ^ shift := by
      rw [Nat.cast_mul, mul_assoc, Nat.cast_pow, Nat.cast_ofNat, ← pow_add, Nat.sub_add_cancel hle]
    rw [hmul]
    refine ⟨(hsig _).1, fun heq => ((hsig _).2 heq).imp_left fun h => ?_⟩
    apply (magnitudeUnits_strictMono fmt).injective
    rw [hunits, magnitudeUnits_shift_add fmt hk hlt.le]
    exact_mod_cast hmul.trans (congrArg (fun n : Nat => (n : ℚ) * 2 ^ shift) h)
  · -- below the least normal significand of that place, and so farther than it
    obtain ⟨-, hy⟩ := hlow.resolve_left (by omega)
    have hbelow : (k : ℚ) * 2 ^ t < 2 ^ fmt.fracBits * 2 ^ shift :=
      calc (k : ℚ) * 2 ^ t < 2 ^ (fmt.fracBits + 1) * 2 ^ t := by gcongr; exact_mod_cast hlt
        _ = 2 ^ fmt.fracBits * 2 ^ (t + 1) := by ring
        _ ≤ 2 ^ fmt.fracBits * 2 ^ shift := by gcongr; exacts [one_le_two, hgt]
    have hfar : |y - sig * 2 ^ shift| < |y - k * 2 ^ t| := by
      refine (hsig (2 ^ fmt.fracBits)).1.trans_lt ?_
      push_cast
      rw [abs_of_nonneg (by linarith), abs_of_nonneg (by linarith)]
      linarith
    exact ⟨hfar.le, fun heq => absurd heq hfar.ne⟩

/-- The place `roundMagnitude` rounds at: there the quotient has at most `fracBits + 1` bits before the point, and just so
many above the subnormals'. -/
theorem roundMagnitude_place (fmt : FloatFormat) (units : Nat) {den : Nat} (hden : 0 < den) :
    let shift := Nat.log2 (units / den) - fmt.fracBits
    (shift = 0 ∨ 2 ^ fmt.fracBits * (den * 2 ^ shift) ≤ units) ∧ units < 2 ^ (fmt.fracBits + 1) * (den * 2 ^ shift) := by
  intro shift
  constructor
  · refine or_iff_not_imp_left.mpr fun h0 => ?_
    have hne : units / den ≠ 0 := fun h => h0 (by simp [shift, h])
    calc 2 ^ fmt.fracBits * (den * 2 ^ shift) = 2 ^ (fmt.fracBits + shift) * den := by ring
      _ = 2 ^ Nat.log2 (units / den) * den := by rw [Nat.add_sub_cancel' (by omega)]
      _ ≤ units / den * den := Nat.mul_le_mul_right _ (Nat.log2_self_le hne)
      _ ≤ units := Nat.div_mul_le_self _ _
  · have hlog : units / den < 2 ^ (fmt.fracBits + 1 + shift) :=
      Nat.lt_log2_self.trans_le (Nat.pow_le_pow_right two_pos (by omega))
    calc units < 2 ^ (fmt.fracBits + 1 + shift) * den := (Nat.div_lt_iff_lt_mul hden).mp hlog
      _ = 2 ^ (fmt.fracBits + 1) * (den * 2 ^ shift) := by ring

/-- `roundMagnitude` is the nearest pattern of a magnitude, or infinity's where that is beyond the format. -/
theorem exists_nearestMagnitude (hreg : fmt.Regular) (num : Nat) {den : Nat} (hden : 0 < den) :
    ∃ r, roundMagnitude fmt num den = min r (infinityPattern fmt) ∧
      NearestMagnitude fmt ((num : ℚ) * unitsPerOne fmt / den) r := by
  refine ⟨_, rfl, ?_⟩
  set units := num * unitsPerOne fmt with hunits
  set shift := Nat.log2 (units / den) - fmt.fracBits with hshift
  have hplace : 0 < den * 2 ^ shift := by positivity
  have hdenQ : (0 : ℚ) < den := by exact_mod_cast hden
  obtain ⟨hlow, hhigh⟩ := roundMagnitude_place fmt units hden
  have hoff : |(num : ℚ) * unitsPerOne fmt / den - roundHalfEven units (den * 2 ^ shift) * 2 ^ shift| * den =
      (|(units : ℤ) - roundHalfEven units (den * 2 ^ shift) * (den * 2 ^ shift : ℕ)| : ℤ) := by
    rw [← abs_of_pos hdenQ, ← abs_mul, abs_of_pos hdenQ, sub_mul, div_mul_cancel₀ _ hdenQ.ne', hunits]
    push_cast
    congr 1
    ring
  obtain ⟨hhalf, htie⟩ := two_mul_abs_sub_roundHalfEven_le units hplace
  refine nearestMagnitude_shift_add hreg ?_ (fun heq => htie ?_) (hlow.imp_right fun h => ⟨?_, ?_⟩)
    (roundHalfEven_le hhigh)
  · rw [← mul_le_mul_iff_of_pos_right hdenQ, mul_assoc, hoff, mul_comm _ (den : ℚ)]
    exact_mod_cast hhalf
  · rw [← mul_right_cancel_iff_of_pos hdenQ, mul_assoc, hoff, mul_comm _ (den : ℚ)] at heq
    exact_mod_cast heq
  · exact le_roundHalfEven hplace h
  · rw [le_div_iff₀ hdenQ, mul_assoc, mul_comm _ (den : ℚ)]
    exact_mod_cast h

theorem NearestMagnitude.eq_of_units_eq {y : ℚ} {r m : Nat} (h : NearestMagnitude fmt y r)
    (hy : y = magnitudeUnits fmt m) : r = m := by
  obtain ⟨hle, -⟩ := h m
  rw [hy, sub_self, abs_zero] at hle
  have heq := sub_eq_zero.mp (abs_eq_zero.mp (hle.antisymm (abs_nonneg _)))
  exact (magnitudeUnits_strictMono fmt).injective (by exact_mod_cast heq.symm)

/-- What is a whole number of units exactly is not changed by rounding. -/
theorem roundMagnitude_eq_of_units_eq (hreg : fmt.Regular) {num den m : Nat} (hden : 0 < den)
    (hm : m ≤ infinityPattern fmt) (h : num * unitsPerOne fmt = magnitudeUnits fmt m * den) :
    roundMagnitude fmt num den = m := by
  obtain ⟨r, hround, hnear⟩ := exists_nearestMagnitude hreg num hden
  have hy : (num : ℚ) * unitsPerOne fmt / den = magnitudeUnits fmt m := by
    rw [div_eq_iff (by exact_mod_cast hden.ne')]
    exact_mod_cast h
  rw [hround, hnear.eq_of_units_eq hy, min_eq_left hm]

theorem infinityPattern_mod_two (hreg : fmt.Regular) : infinityPattern fmt % 2 = 0 :=
  Nat.mod_eq_zero_of_dvd ((dvd_pow_self 2 hreg.frac_pos.ne').mul_left _)

theorem infinityPattern_pos (hreg : fmt.Regular) : 0 < infinityPattern fmt := by
  have := hreg.two_pow_expBits
  have := hreg.exp_room
  exact Nat.mul_pos (by unfold expAllOnes; omega) (Nat.two_pow_pos _)

/-- The overflow bound is midway between the largest finite magnitude and the next power of two. -/
theorem two_mul_overflowBound (hreg : fmt.Regular) : 2 * (overflowBound fmt * unitsPerOne fmt) =
    magnitudeUnits fmt (infinityPattern fmt - 1) + magnitudeUnits fmt (infinityPattern fmt) := by
  obtain ⟨d, hd⟩ := Nat.exists_eq_add_of_le hreg.exp_room
  have hexp := hreg.two_pow_expBits
  have hF : 0 < 2 ^ fmt.fracBits := Nat.two_pow_pos _
  have hinf : infinityPattern fmt = (2 * fmt.fracBits + 2 * d + 2) * 2 ^ fmt.fracBits + 2 ^ fmt.fracBits := by
    rw [infinityPattern, expAllOnes, hexp, hd, ← Nat.succ_mul]
    congr 1
    omega
  have hlast : infinityPattern fmt - 1 =
      (2 * fmt.fracBits + 2 * d + 1) * 2 ^ fmt.fracBits + (2 ^ (fmt.fracBits + 1) - 1) := by
    rw [hinf, pow_succ, Nat.succ_mul]
    omega
  rw [hlast, hinf, magnitudeUnits_shift_add fmt (.inr le_rfl) (Nat.pow_le_pow_right two_pos (Nat.le_succ _)),
    magnitudeUnits_shift_add fmt (.inr (by rw [pow_succ]; omega)) (Nat.sub_le _ _), overflowBound, unitsPerOne, unitExp,
    hd, show fmt.fracBits + 2 + d - 1 - fmt.fracBits - 1 = d by omega,
    show fmt.fracBits + 2 + d - 1 + fmt.fracBits - 1 = 2 * fmt.fracBits + d by
      have := hreg.frac_pos; omega]
  push_cast [Nat.one_le_two_pow]
  ring

/-- At and above the overflow bound the nearest magnitude is beyond the format, below it in the format (R145). -/
theorem NearestMagnitude.infinityPattern_le_iff (hreg : fmt.Regular) {y : ℚ} {r : Nat} (h : NearestMagnitude fmt y r) :
    infinityPattern fmt ≤ r ↔ overflowBound fmt * unitsPerOne fmt ≤ y := by
  have hbound := two_mul_overflowBound hreg
  have hpos := infinityPattern_pos hreg
  have hmono {a b : Nat} (hab : a ≤ b) : (magnitudeUnits fmt a : ℚ) ≤ magnitudeUnits fmt b := by
    exact_mod_cast (magnitudeUnits_strictMono fmt).monotone hab
  have hlt : (magnitudeUnits fmt (infinityPattern fmt - 1) : ℚ) < magnitudeUnits fmt (infinityPattern fmt) := by
    exact_mod_cast magnitudeUnits_strictMono fmt (by omega)
  constructor
  · intro hr
    by_contra hy
    have hru := hmono hr
    obtain ⟨hle, -⟩ := h (infinityPattern fmt - 1)
    rw [abs_sub_comm, abs_of_nonneg (by linarith)] at hle
    rcases abs_cases (y - magnitudeUnits fmt (infinityPattern fmt - 1)) with ⟨habs, -⟩ | ⟨habs, -⟩ <;> linarith
  · intro hy
    by_contra hr
    have hru := hmono (show r ≤ infinityPattern fmt - 1 by omega)
    obtain ⟨hle, htie⟩ := h (infinityPattern fmt)
    rw [abs_of_nonneg (by linarith)] at hle htie
    rcases abs_cases (y - magnitudeUnits fmt (infinityPattern fmt)) with ⟨habs, -⟩ | ⟨habs, -⟩
    · linarith
    · -- `y` is midway, and the largest finite magnitude is odd
      have hlast : r = infinityPattern fmt - 1 := by
        apply (magnitudeUnits_strictMono fmt).injective
        exact_mod_cast hru.antisymm (by linarith)
      have hodd := infinityPattern_mod_two hreg
      have := htie (by linarith)
      omega

/-! ### `roundMagnitude` rounds correctly (R137, R140, R145) -/

theorem unitsPerOne_pos (fmt : FloatFormat) : 0 < unitsPerOne fmt := Nat.two_pow_pos _

theorem two_pow_le_overflowBound (hreg : fmt.Regular) :
    (2 : ℚ) ^ (2 ^ (fmt.expBits - 1) - 1) ≤ overflowBound fmt := by
  have hroom := hreg.exp_room
  have hhalf : (2 : ℚ) ^ (2 ^ (fmt.expBits - 1) - 1 - fmt.fracBits - 1) ≤ 2 ^ (2 ^ (fmt.expBits - 1) - 1) :=
    pow_le_pow_right₀ one_le_two (by omega)
  have hdouble : (2 : ℚ) ^ 2 ^ (fmt.expBits - 1) = 2 * 2 ^ (2 ^ (fmt.expBits - 1) - 1) := by
    rw [← pow_succ', Nat.sub_add_cancel (by omega)]
  rw [overflowBound, hdouble]
  linarith

theorem overflowBound_pos (hreg : fmt.Regular) : 0 < overflowBound fmt :=
  (by positivity : (0 : ℚ) < 2 ^ (2 ^ (fmt.expBits - 1) - 1)).trans_le (two_pow_le_overflowBound hreg)

theorem abs_sign_mul (sign : Bool) (a : ℚ) : |(if sign then -1 else 1) * a| = |a| := by
  cases sign <;> simp

/-- Magnitudes of one sign are as far apart as they are, and of two signs as far as their sum. -/
theorem abs_sign_mul_sub_sign_mul (s t : Bool) {a b : ℚ} (ha : 0 ≤ a) (hb : 0 ≤ b) :
    |(if s then -1 else 1) * a - (if t then -1 else 1) * b| = if s = t then |a - b| else a + b := by
  obtain rfl | hst := eq_or_ne s t
  · rw [if_pos rfl, ← mul_sub, abs_sign_mul]
  · have hopposite : (if t then -1 else 1 : ℚ) = -(if s then -1 else 1) := by revert hst; cases s <;> cases t <;> simp
    rw [if_neg hst, hopposite, neg_mul, sub_neg_eq_add, ← mul_add, abs_sign_mul, abs_of_nonneg (add_nonneg ha hb)]

/-- Signs only move a pattern away: one of any sign at the least distance is of the nearest magnitude, or even. -/
theorem NearestMagnitude.signed {y : ℚ} {r : Nat} (h : NearestMagnitude fmt y r) (hy : 0 ≤ y) (s t : Bool) (m : Nat) :
    |y - magnitudeUnits fmt r| ≤
      |(if s then -1 else 1) * y - (if t then -1 else 1) * (magnitudeUnits fmt m : ℚ)| ∧
    (|y - magnitudeUnits fmt r| =
        |(if s then -1 else 1) * y - (if t then -1 else 1) * (magnitudeUnits fmt m : ℚ)| →
      m = r ∧ (s = t ∨ magnitudeUnits fmt m = 0) ∨ r % 2 = 0) := by
  obtain ⟨hle, htie⟩ := h m
  have hm : (0 : ℚ) ≤ magnitudeUnits fmt m := Nat.cast_nonneg _
  rw [abs_sign_mul_sub_sign_mul s t hy hm]
  split_ifs with hst
  · exact ⟨hle, fun heq => (htie heq).imp_left fun hmr => ⟨hmr, .inl hst⟩⟩
  · have hsum : |y - magnitudeUnits fmt m| ≤ y + magnitudeUnits fmt m := by
      rw [abs_le]; constructor <;> linarith
    refine ⟨hle.trans hsum, fun heq => (htie (by linarith)).imp_left fun hmr => ⟨hmr, .inr ?_⟩⟩
    obtain ⟨hzero, -⟩ := h 0
    rw [heq, magnitudeUnits_zero, Nat.cast_zero, sub_zero, abs_of_nonneg hy] at hzero
    exact_mod_cast hm.antisymm' (by linarith)

/-- With its sign, the nearest magnitude is the nearest pattern: the distance in units, over those that make 1. -/
theorem NearestMagnitude.nearest_signedPattern {y : ℚ} {r : Nat} (h : NearestMagnitude fmt y r) (hy : 0 ≤ y)
    (hr : r < infinityPattern fmt) (hreg : fmt.Regular) (s : Bool) {q : Nat} (hq : isFinitePattern fmt q) :
    let x := (if s then -1 else 1) * y / unitsPerOne fmt
    let p := signedPattern fmt s r
    |x - floatValue fmt p| ≤ |x - floatValue fmt q| ∧
      (|x - floatValue fmt p| = |x - floatValue fmt q| → floatValue fmt q = floatValue fmt p ∨ p % 2 = 0) := by
  have hP : (0 : ℚ) < unitsPerOne fmt := by exact_mod_cast unitsPerOne_pos fmt
  have hscale (t : Bool) {m : ℕ} (hm : m < infinityPattern fmt) :
      |(if s then -1 else 1) * y / unitsPerOne fmt - floatValue fmt (signedPattern fmt t m)| =
        |(if s then -1 else 1) * y - (if t then -1 else 1) * (magnitudeUnits fmt m : ℚ)| / unitsPerOne fmt := by
    rw [floatValue_signedPattern fmt t (hm.trans (infinityPattern_lt fmt)), ← mul_div_assoc, ← sub_div, abs_div,
      abs_of_pos hP]
  obtain ⟨t, m, hm, rfl⟩ := (isFinitePattern_iff fmt).mp hq
  obtain ⟨hle, htie⟩ := h.signed hy s t m
  dsimp only
  rw [hscale s hr, hscale t hm, div_le_div_iff_of_pos_right hP, div_left_inj' hP.ne',
    signedPattern_mod_two fmt s hreg, ← mul_sub, abs_sign_mul]
  refine ⟨hle, fun heq => (htie heq).imp_left ?_⟩
  rintro ⟨rfl, rfl | hzero⟩
  · rfl
  · simp [floatValue_signedPattern fmt _ (hm.trans (infinityPattern_lt fmt)), hzero]

/-- The pattern of a sign and of the rounded magnitude is that sign and magnitude correctly rounded. -/
theorem correctlyRounded_roundMagnitude (hreg : fmt.Regular) (sign : Bool) (num : Nat) {den : Nat} (hden : 0 < den) :
    CorrectlyRounded fmt ((if sign then -1 else 1) * ((num : ℚ) / den))
      (signedPattern fmt sign (roundMagnitude fmt num den)) := by
  obtain ⟨r, hround, hnear⟩ := exists_nearestMagnitude hreg num hden
  have hP : (0 : ℚ) < unitsPerOne fmt := by exact_mod_cast unitsPerOne_pos fmt
  have hinf := hnear.infinityPattern_le_iff hreg
  rw [mul_div_right_comm, mul_le_mul_iff_of_pos_right hP] at hinf
  have hnonneg : (0 : ℚ) ≤ num / den := by positivity
  unfold CorrectlyRounded
  rw [abs_sign_mul, abs_of_nonneg hnonneg, hround]
  by_cases hover : overflowBound fmt ≤ (num : ℚ) / den
  · have hpos := (overflowBound_pos hreg).trans_le hover
    rw [if_pos hover, min_eq_right (hinf.mpr hover)]
    cases sign <;> simp [hpos, hnonneg.not_gt]
  · have hr : r < infinityPattern fmt := not_le.mp (mt hinf.mp hover)
    rw [if_neg hover, min_eq_left hr.le]
    refine ⟨(isFinitePattern_iff fmt).mpr ⟨sign, r, hr, rfl⟩, fun q hq => ?_⟩
    have hx : (if sign then -1 else 1) * ((num : ℚ) / den) =
        (if sign then -1 else 1) * ((num : ℚ) * unitsPerOne fmt / den) / unitsPerOne fmt := by
      field_simp
    rw [hx]
    exact hnear.nearest_signedPattern (by positivity) hr hreg sign hq

end

end Sys2Proof.Machine
end

section
/-! binary32 and binary64 (43_codec.md R145, R149, R150): which numbers are patterns exactly, infinities and NaNs, and
`narrow` and `widen` by the class of their operand. -/

namespace Sys2Proof.Machine

/-! ### Which numbers are patterns exactly -/

section
variable {fmt : FloatFormat}

theorem roundMagnitude_lt (fmt : FloatFormat) (num den : Nat) :
    roundMagnitude fmt num den < 2 ^ (fmt.fracBits + fmt.expBits) :=
  (min_le_right _ _).trans_lt (infinityPattern_lt fmt)

/-- Infinity's pattern stands where the next power of two would: at `2^128` in binary32, `2^1024` in binary64. -/
theorem magnitudeUnits_infinityPattern (hreg : fmt.Regular) :
    magnitudeUnits fmt (infinityPattern fmt) = 2 ^ 2 ^ (fmt.expBits - 1) * unitsPerOne fmt := by
  have hexp := hreg.two_pow_expBits
  have hroom := hreg.exp_room
  have hinf : infinityPattern fmt = (2 ^ fmt.expBits - 2) * 2 ^ fmt.fracBits + 2 ^ fmt.fracBits := by
    rw [infinityPattern, expAllOnes, ← Nat.succ_mul]
    congr 1
    omega
  rw [hinf, magnitudeUnits_shift_add fmt (.inr le_rfl) (Nat.pow_le_pow_right two_pos (Nat.le_succ _)), unitsPerOne,
    unitExp, ← pow_add, ← pow_add]
  congr 1
  have := hreg.frac_pos
  omega

/-- A number of units with at most `fracBits + 1` significant bits and below the next power of two has a pattern. -/
theorem exists_finite_magnitudeUnits_eq (hreg : fmt.Regular) {k t : Nat} (hk : k < 2 ^ (fmt.fracBits + 1))
    (hlt : k * 2 ^ t < 2 ^ 2 ^ (fmt.expBits - 1) * unitsPerOne fmt) :
    ∃ m < infinityPattern fmt, magnitudeUnits fmt m = k * 2 ^ t := by
  obtain ⟨m, hm⟩ := exists_magnitudeUnits_eq fmt hk t
  rw [← hm, ← magnitudeUnits_infinityPattern hreg, (magnitudeUnits_strictMono fmt).lt_iff_lt] at hlt
  exact ⟨m, hlt, hm⟩

theorem roundMagnitude_zero (hreg : fmt.Regular) {den : Nat} (hden : 0 < den) : roundMagnitude fmt 0 den = 0 :=
  roundMagnitude_eq_of_units_eq hreg hden (Nat.zero_le _) (by simp)

theorem exists_unitsPerOne_eq {wide : FloatFormat} (h : unitExp fmt ≤ unitExp wide) :
    ∃ d, unitsPerOne wide = unitsPerOne fmt * 2 ^ d :=
  ⟨unitExp wide - unitExp fmt, by rw [unitsPerOne, unitsPerOne, ← pow_add, Nat.add_sub_cancel' h]⟩

/-- A format with longer fields has every finite magnitude of a format, its units being so many times as many. -/
theorem exists_wider_magnitude {wide : FloatFormat} (hreg : fmt.Regular) (hwide : wide.Regular)
    (hfrac : fmt.fracBits ≤ wide.fracBits) (hexp : fmt.expBits ≤ wide.expBits) {m : Nat}
    (hm : m < infinityPattern fmt) :
    ∃ m' < infinityPattern wide, magnitudeUnits wide m' * unitsPerOne fmt = magnitudeUnits fmt m * unitsPerOne wide := by
  have hrange : 2 ^ (fmt.expBits - 1) ≤ 2 ^ (wide.expBits - 1) := Nat.pow_le_pow_right two_pos (by omega)
  obtain ⟨d, hd⟩ := exists_unitsPerOne_eq (fmt := fmt) (wide := wide) (by unfold unitExp; omega)
  have hvalue := magnitudeUnits_strictMono fmt hm
  rw [magnitudeUnits_infinityPattern hreg] at hvalue
  obtain ⟨shift, sig, rfl, hlow, hhigh⟩ := exists_significand fmt m
  rw [magnitudeUnits_shift_add _ hlow hhigh.le] at hvalue ⊢
  have hlt : sig * 2 ^ (shift + d) < 2 ^ 2 ^ (wide.expBits - 1) * unitsPerOne wide :=
    calc sig * 2 ^ (shift + d) = sig * 2 ^ shift * 2 ^ d := by rw [pow_add, mul_assoc]
      _ < 2 ^ 2 ^ (fmt.expBits - 1) * unitsPerOne fmt * 2 ^ d := Nat.mul_lt_mul_of_pos_right hvalue (Nat.two_pow_pos d)
      _ = 2 ^ 2 ^ (fmt.expBits - 1) * unitsPerOne wide := by rw [hd, mul_assoc]
      _ ≤ 2 ^ 2 ^ (wide.expBits - 1) * unitsPerOne wide :=
        Nat.mul_le_mul_right _ (Nat.pow_le_pow_right two_pos hrange)
  obtain ⟨m', hm', hunits⟩ := exists_finite_magnitudeUnits_eq hwide
    (hhigh.trans_le (Nat.pow_le_pow_right two_pos (Nat.succ_le_succ hfrac))) hlt
  exact ⟨m', hm', by rw [hunits, hd, pow_add]; ac_rfl⟩

/-! ### Infinities and NaNs -/

theorem infinityPattern_add_lt {payload : Nat} (h : payload < 2 ^ fmt.fracBits) :
    infinityPattern fmt + payload < 2 ^ (fmt.fracBits + fmt.expBits) := by
  have hone : 1 ≤ 2 ^ fmt.expBits := Nat.one_le_two_pow
  calc infinityPattern fmt + payload < expAllOnes fmt * 2 ^ fmt.fracBits + 2 ^ fmt.fracBits := by
        rw [infinityPattern]; omega
    _ = 2 ^ (fmt.fracBits + fmt.expBits) := by
        rw [← Nat.succ_mul, expAllOnes, Nat.succ_eq_add_one, Nat.sub_add_cancel hone, pow_add, mul_comm]

/-- A fraction with an exponent field of all ones. -/
theorem signedPattern_infinityPattern_add (sign : Bool) {payload : Nat} (h : payload < 2 ^ fmt.fracBits) :
    floatExp fmt (signedPattern fmt sign (infinityPattern fmt + payload)) = expAllOnes fmt ∧
    floatFrac fmt (signedPattern fmt sign (infinityPattern fmt + payload)) = payload := by
  rw [floatExp_signedPattern fmt sign (infinityPattern_add_lt h), floatFrac_signedPattern, infinityPattern,
    Nat.mul_add_mod', Nat.mod_eq_of_lt h, mul_comm, Nat.mul_add_div (Nat.two_pow_pos _), Nat.div_eq_of_lt h]
  exact ⟨rfl, rfl⟩

theorem signedPattern_infinityPattern (sign : Bool) :
    isNonfinite fmt (signedPattern fmt sign (infinityPattern fmt)) = true ∧
    floatFrac fmt (signedPattern fmt sign (infinityPattern fmt)) = 0 := by
  obtain ⟨hexp, hfrac⟩ := signedPattern_infinityPattern_add (fmt := fmt) sign (Nat.two_pow_pos _)
  exact ⟨decide_eq_true hexp, hfrac⟩

/-- Correct rounding leaves the format just at and above the overflow bound. -/
theorem CorrectlyRounded.isNonfinite_iff {x : ℚ} {p : Nat} (h : CorrectlyRounded fmt x p) :
    isNonfinite fmt p = true ↔ overflowBound fmt ≤ |x| := by
  unfold CorrectlyRounded at h
  by_cases hover : overflowBound fmt ≤ |x|
  · rw [if_pos hover] at h
    simp only [h, (signedPattern_infinityPattern _).1, hover]
  · rw [if_neg hover] at h
    obtain ⟨⟨-, hfin⟩, -⟩ := h
    simp [hfin, hover]

theorem floatClass_cases (fmt : FloatFormat) (p : Nat) :
    isNonfinite fmt p = false ∨ (isNonfinite fmt p = true ∧ isNaN fmt p = false) ∨ isNaN fmt p = true := by
  cases isNonfinite fmt p <;> cases isNaN fmt p <;> simp

theorem isNonfinite_of_isNaN {p : Nat} (h : isNaN fmt p = true) : isNonfinite fmt p = true :=
  (Bool.and_eq_true _ _ ▸ h).1

theorem isNaN_of_finite {p : Nat} (h : isNonfinite fmt p = false) : isNaN fmt p = false := by
  simp [isNaN, h]

/-- A pattern of `w` bits is a word of `w` bits. -/
theorem toNat_ofNat_signedPattern {w : Nat} (hw : fmt.fracBits + fmt.expBits + 1 = w) (sign : Bool) {m : Nat}
    (hm : m < 2 ^ (fmt.fracBits + fmt.expBits)) :
    (BitVec.ofNat w (signedPattern fmt sign m)).toNat = signedPattern fmt sign m := by
  subst hw
  exact Nat.mod_eq_of_lt (signedPattern_lt fmt sign hm)

end

/-! ### `narrow` and `widen` by the class of the operand (R145, R149) -/

section
variable {v : F64}

theorem narrow_of_finite (h : isNonfinite binary64 v.toNat = false) :
    (narrow v).toNat = signedPattern binary32 (floatSign binary64 v.toNat)
      (roundMagnitude binary32 (floatUnits binary64 v.toNat) (unitsPerOne binary64)) := by
  rw [← toNat_ofNat_signedPattern (w := 32) rfl _ (roundMagnitude_lt _ _ _)]
  simp [narrow, h, isNaN_of_finite h]

theorem narrow_of_infinite (h : isNonfinite binary64 v.toNat = true) (hnan : isNaN binary64 v.toNat = false) :
    (narrow v).toNat = signedPattern binary32 (floatSign binary64 v.toNat) (infinityPattern binary32) := by
  rw [← toNat_ofNat_signedPattern (w := 32) rfl _ (infinityPattern_lt _)]
  simp [narrow, h, hnan]

theorem narrow_payload_lt (v : Nat) : floatFrac binary64 v / 2 ^ 29 ||| 0x400000 < 2 ^ binary32.fracBits :=
  Nat.or_lt_two_pow (Nat.div_lt_of_lt_mul (Nat.mod_lt _ (Nat.two_pow_pos _))) (by decide)

theorem narrow_of_nan (h : isNaN binary64 v.toNat = true) :
    (narrow v).toNat = signedPattern binary32 (floatSign binary64 v.toNat)
      (infinityPattern binary32 + (floatFrac binary64 v.toNat / 2 ^ 29 ||| 0x400000)) := by
  rw [← toNat_ofNat_signedPattern (w := 32) rfl _ (infinityPattern_add_lt (narrow_payload_lt _))]
  simp [narrow, h]

theorem floatSign_narrow (v : F64) : floatSign binary32 (narrow v).toNat = floatSign binary64 v.toNat := by
  rcases floatClass_cases binary64 v.toNat with h | ⟨h, hnan⟩ | h
  · rw [narrow_of_finite h, floatSign_signedPattern _ _ (roundMagnitude_lt _ _ _)]
  · rw [narrow_of_infinite h hnan, floatSign_signedPattern _ _ (infinityPattern_lt _)]
  · rw [narrow_of_nan h, floatSign_signedPattern _ _ (infinityPattern_add_lt (narrow_payload_lt _))]

theorem correctlyRounded_narrow (h : isNonfinite binary64 v.toNat = false) :
    CorrectlyRounded binary32 (floatValue binary64 v.toNat) (narrow v).toNat := by
  rw [narrow_of_finite h]
  exact correctlyRounded_roundMagnitude binary32_regular _ _ (unitsPerOne_pos _)

end

/-- Settles O51: the finite values by the one rounding of magnitudes, infinities and NaNs by their fields. -/
theorem narrowFollowsItsTable : Obligations.NarrowFollowsItsTable := by
  unfold Obligations.NarrowFollowsItsTable
  refine fun v => ⟨floatSign_narrow v, correctlyRounded_narrow, fun h hnan => BitVec.eq_of_toNat_eq ?_, fun hnan => ?_⟩
  · rw [narrow_of_infinite h hnan]
    cases floatSign binary64 v.toNat <;> rfl
  · rw [narrow_of_nan hnan]
    exact signedPattern_infinityPattern_add _ (narrow_payload_lt _)

section
variable {b : BitVec 32}

theorem widen_of_finite (h : isNonfinite binary32 b.toNat = false) :
    (widen b).toNat = signedPattern binary64 (floatSign binary32 b.toNat)
      (roundMagnitude binary64 (floatUnits binary32 b.toNat) (unitsPerOne binary32)) := by
  rw [← toNat_ofNat_signedPattern (w := 64) rfl _ (roundMagnitude_lt _ _ _)]
  simp [widen, h, isNaN_of_finite h]

theorem widen_of_infinite (h : isNonfinite binary32 b.toNat = true) (hnan : isNaN binary32 b.toNat = false) :
    (widen b).toNat = signedPattern binary64 (floatSign binary32 b.toNat) (infinityPattern binary64) := by
  rw [← toNat_ofNat_signedPattern (w := 64) rfl _ (infinityPattern_lt _)]
  simp [widen, h, hnan]

theorem widen_payload_lt (p : Nat) : floatFrac binary32 p * 2 ^ 29 ||| 2 ^ 51 < 2 ^ binary64.fracBits :=
  Nat.or_lt_two_pow
    ((Nat.mul_lt_mul_of_pos_right (Nat.mod_lt p (Nat.two_pow_pos _)) (Nat.two_pow_pos 29)).trans_eq (by decide))
    (by decide)

theorem widen_of_nan (h : isNaN binary32 b.toNat = true) :
    (widen b).toNat = signedPattern binary64 (floatSign binary32 b.toNat)
      (infinityPattern binary64 + (floatFrac binary32 b.toNat * 2 ^ 29 ||| 2 ^ 51)) := by
  rw [← toNat_ofNat_signedPattern (w := 64) rfl _ (infinityPattern_add_lt (widen_payload_lt _))]
  simp [widen, h]

theorem floatSign_widen (b : BitVec 32) : floatSign binary64 (widen b).toNat = floatSign binary32 b.toNat := by
  rcases floatClass_cases binary32 b.toNat with h | ⟨h, hnan⟩ | h
  · rw [widen_of_finite h, floatSign_signedPattern _ _ (roundMagnitude_lt _ _ _)]
  · rw [widen_of_infinite h hnan, floatSign_signedPattern _ _ (infinityPattern_lt _)]
  · rw [widen_of_nan h, floatSign_signedPattern _ _ (infinityPattern_add_lt (widen_payload_lt _))]

/-- A finite pattern and its widening are of one sign and of magnitudes of one value. -/
theorem exists_magnitudes_of_finite (h : isNonfinite binary32 b.toNat = false) :
    ∃ m < infinityPattern binary32, ∃ m' < infinityPattern binary64,
      b.toNat = signedPattern binary32 (floatSign binary32 b.toNat) m ∧
      (widen b).toNat = signedPattern binary64 (floatSign binary32 b.toNat) m' ∧
      magnitudeUnits binary64 m' * unitsPerOne binary32 = magnitudeUnits binary32 m * unitsPerOne binary64 := by
  obtain ⟨sign, m, hm, hb⟩ := (isFinitePattern_iff binary32).mp ⟨b.isLt, h⟩
  obtain ⟨m', hm', hunits⟩ :=
    exists_wider_magnitude binary32_regular binary64_regular (by decide) (by decide) hm
  have hlt := hm.trans (infinityPattern_lt binary32)
  have hsign : floatSign binary32 b.toNat = sign := by rw [hb, floatSign_signedPattern _ _ hlt]
  have hround : roundMagnitude binary64 (floatUnits binary32 b.toNat) (unitsPerOne binary32) = m' := by
    apply roundMagnitude_eq_of_units_eq binary64_regular (unitsPerOne_pos _) hm'.le
    rw [hb, floatUnits_signedPattern _ _ hlt, hunits]
  exact ⟨m, hm, m', hm', hsign ▸ hb, by rw [widen_of_finite h, hround], hunits⟩

theorem widen_finite (h : isNonfinite binary32 b.toNat = false) :
    isNonfinite binary64 (widen b).toNat = false ∧
    floatValue binary64 (widen b).toNat = floatValue binary32 b.toNat := by
  obtain ⟨m, hm, m', hm', hb, hwiden, hunits⟩ := exists_magnitudes_of_finite h
  have hlt' := hm'.trans (infinityPattern_lt _)
  have hP (fmt : FloatFormat) : (unitsPerOne fmt : ℚ) ≠ 0 := by exact_mod_cast (unitsPerOne_pos fmt).ne'
  have hvalue : (magnitudeUnits binary64 m' : ℚ) / unitsPerOne binary64 =
      magnitudeUnits binary32 m / unitsPerOne binary32 := by
    rw [div_eq_div_iff (hP _) (hP _)]
    exact_mod_cast hunits
  refine ⟨by rw [hwiden]; exact (isNonfinite_signedPattern_eq_false_iff _ _ hlt').mpr hm', ?_⟩
  rw [hwiden, floatValue_signedPattern _ _ hlt', hvalue, ← floatValue_signedPattern _ _ (hm.trans (infinityPattern_lt _)),
    ← hb]

/-- R150: a finite pattern comes back through binary64. -/
theorem narrow_widen (h : isNonfinite binary32 b.toNat = false) : narrow (widen b) = b := by
  obtain ⟨m, hm, m', hm', hb, hwiden, hunits⟩ := exists_magnitudes_of_finite h
  have hround : roundMagnitude binary32 (floatUnits binary64 (widen b).toNat) (unitsPerOne binary64) = m := by
    apply roundMagnitude_eq_of_units_eq binary32_regular (unitsPerOne_pos _) hm.le
    rw [hwiden, floatUnits_signedPattern _ _ (hm'.trans (infinityPattern_lt _)), hunits]
  exact BitVec.eq_of_toNat_eq (by rw [narrow_of_finite (widen_finite h).1, hround, floatSign_widen, ← hb])

end

/-- Settles O57: binary64 has the units of a finite pattern exactly; infinities and NaNs by their fields. -/
theorem widenIsExact : Obligations.WidenIsExact := by
  unfold Obligations.WidenIsExact
  refine ⟨fun b => ⟨floatSign_widen b, widen_finite, fun h hnan => ?_, fun hnan => ?_⟩, by decide +kernel⟩
  · rw [widen_of_infinite h hnan]
    exact signedPattern_infinityPattern _
  · rw [widen_of_nan hnan]
    exact signedPattern_infinityPattern_add _ (widen_payload_lt _)

end Sys2Proof.Machine
end

section
/-! The float codec (43_codec.md R143 to R150): the orders of a float's two registers, and ENC.F32 and DEC.F32. -/

namespace Sys2Proof.Machine

/-! ### The two halves of a pattern -/

section
variable (high low : Word) (bits : BitVec 32)

theorem extractLsb'_high : ((high.setWidth 32 <<< 16) ||| low.setWidth 32).extractLsb' 16 16 = high := by
  ext i hi
  simp [show 16 + i < 32 by omega, BitVec.getLsbD_eq_getElem hi]

theorem extractLsb'_low : ((high.setWidth 32 <<< 16) ||| low.setWidth 32).extractLsb' 0 16 = low := by
  ext i hi
  simp [hi, show i < 32 by omega]

theorem high_or_low :
    ((bits.extractLsb' 16 16).setWidth 32 <<< 16) ||| (bits.extractLsb' 0 16).setWidth 32 = bits := by
  ext i hi
  by_cases hlow : i < 16
  · simp [hlow, hi]
  · simp [hlow, show i - 16 < 16 by omega, show 16 + (i - 16) = i by omega, BitVec.getLsbD_eq_getElem hi]

end

/-! ### The orders (R143) -/

theorem applyByteOrder_applyByteOrder (order : Order) (w : Word) : applyByteOrder order (applyByteOrder order w) = w := by
  cases order with
  | big => rfl
  | little => exact bswap16_bswap16 w

theorem unpackOrder_packOrder (bits : BitVec 32) (byteOrder wordOrder : Order) :
    unpackOrder (packOrder bits byteOrder wordOrder).1 (packOrder bits byteOrder wordOrder).2 byteOrder wordOrder =
      bits := by
  cases wordOrder <;> simp only [packOrder, unpackOrder, applyByteOrder_applyByteOrder, high_or_low]

theorem packOrder_unpackOrder (reg0 reg1 : Word) (byteOrder wordOrder : Order) :
    packOrder (unpackOrder reg0 reg1 byteOrder wordOrder) byteOrder wordOrder = (reg0, reg1) := by
  cases wordOrder <;>
    simp only [packOrder, unpackOrder, extractLsb'_high, extractLsb'_low, applyByteOrder_applyByteOrder]

/-- Settles O56: each order swaps the bytes in the registers or not and the registers or not, and swaps back. -/
theorem ordersFollowTheirTable : Obligations.OrdersFollowTheirTable := by
  unfold Obligations.OrdersFollowTheirTable
  refine ⟨fun b3 b2 b1 b0 => ?_, unpackOrder_packOrder⟩
  simp [packOrder, applyByteOrder, extractLsb'_high, extractLsb'_low, bswap16, wordBytes]

/-! ### The commands (R144, R147, R148) -/

theorem exec_encF32 (value : F64) (byteOrder wordOrder : Order) (s : State) :
    exec (.encF32 value byteOrder wordOrder) s = .next { s with outputs := s.outputs ++ [.result (.ok (.words
      [(encF32 value byteOrder wordOrder).1, (encF32 value byteOrder wordOrder).2]))] } := rfl

theorem exec_decF32 (reg0 reg1 : Word) (byteOrder wordOrder : Order) (s : State) :
    exec (.decF32 reg0 reg1 byteOrder wordOrder) s = .next { s with outputs := s.outputs ++
      [.result ((decF32 s.cfg.acceptNonfinite reg0 reg1 byteOrder wordOrder).map .float)] } := rfl

section
variable {accept : Bool} {reg0 reg1 : Word} {byteOrder wordOrder : Order}

theorem decF32_malformed (h : isNonfinite binary32 (unpackOrder reg0 reg1 byteOrder wordOrder).toNat = true) :
    decF32 false reg0 reg1 byteOrder wordOrder = .error .malformedFloat := by
  simp [decF32, h]

theorem decF32_accepted
    (h : isNonfinite binary32 (unpackOrder reg0 reg1 byteOrder wordOrder).toNat = false ∨ accept = true) :
    decF32 accept reg0 reg1 byteOrder wordOrder = .ok (widen (unpackOrder reg0 reg1 byteOrder wordOrder)) := by
  rcases h with h | h <;> simp [decF32, h]

end

/-- Settles O59: the commands put out what the codec answers, which rejects just the exponent field of all ones. -/
theorem float32CommandResults : Obligations.Float32CommandResults := by
  unfold Obligations.Float32CommandResults
  refine ⟨exec_encF32, fun reg0 reg1 byteOrder wordOrder s => ⟨fun hexp haccept => ?_,
    fun h => ?_⟩, fun value reg0 reg1 b w => ⟨rfl, rfl⟩⟩
  · rw [exec_decF32, haccept, decF32_malformed (decide_eq_true hexp)]
    rfl
  · rw [exec_decF32, decF32_accepted (h.imp_left decide_eq_false)]
    rfl

/-! ### The round trips (R150) -/

theorem decF32_encF32 (v : F64) (byteOrder wordOrder : Order) :
    decF32 false (encF32 v byteOrder wordOrder).1 (encF32 v byteOrder wordOrder).2 byteOrder wordOrder =
      if isNonfinite binary32 (narrow v).toNat then .error .malformedFloat else .ok (widen (narrow v)) := by
  simp [decF32, encF32, unpackOrder_packOrder]

/-- A value narrows to an infinity or NaN just when it is one or is at or beyond the overflow bound (R145). -/
theorem isNonfinite_narrow_iff (v : F64) : isNonfinite binary32 (narrow v).toNat = true ↔
    isNonfinite binary64 v.toNat = true ∨ overflowBound binary32 ≤ |floatValue binary64 v.toNat| := by
  rcases floatClass_cases binary64 v.toNat with h | ⟨h, hnan⟩ | h
  · simp [h, (correctlyRounded_narrow h).isNonfinite_iff]
  · simp [h, narrow_of_infinite h hnan, signedPattern_infinityPattern]
  · have hexp := (signedPattern_infinityPattern_add (floatSign binary64 v.toNat) (narrow_payload_lt v.toNat)).1
    rw [narrow_of_nan h]
    exact iff_of_true (decide_eq_true hexp) (.inl (isNonfinite_of_isNaN h))

/-- Settles O58: the orders cancel, and what is left is `narrow` then `widen`, or `widen` then `narrow`. -/
theorem float32RoundTrip : Obligations.Float32RoundTrip := by
  unfold Obligations.Float32RoundTrip
  refine ⟨fun v byteOrder wordOrder b hb hv => ?_, fun v byteOrder wordOrder => ?_,
    fun reg0 reg1 byteOrder wordOrder hfin => ⟨_, decF32_accepted (.inl hfin), ?_⟩⟩
  · rw [decF32_encF32, hv, narrow_widen hb, hb]
    rfl
  · rw [decF32_encF32]
    simp only [isNonfinite_narrow_iff]
  · rw [encF32, narrow_widen hfin, packOrder_unpackOrder]

end Sys2Proof.Machine
end

section
/-! The scaled codec (43_codec.md R136 to R140): rounding half away from zero, ENC.SCALED and DEC.SCALED. -/

namespace Sys2Proof.Machine

/-! ### `round_haz` (R138) -/

theorem abs_floatValue (fmt : FloatFormat) (p : Nat) :
    |floatValue fmt p| = (floatUnits fmt p : ℚ) / unitsPerOne fmt := by
  rw [floatValue, abs_sign_mul, abs_of_nonneg (by positivity)]

theorem floor_abs_floatValue_add_half (fmt : FloatFormat) (p : Nat) :
    ⌊|floatValue fmt p| + 1 / 2⌋ = ((2 * floatUnits fmt p + unitsPerOne fmt) / (2 * unitsPerOne fmt) : ℕ) := by
  have hP : (unitsPerOne fmt : ℚ) ≠ 0 := by exact_mod_cast (unitsPerOne_pos fmt).ne'
  have hquot : |floatValue fmt p| + 1 / 2 =
      (2 * floatUnits fmt p + unitsPerOne fmt : ℕ) / (2 * unitsPerOne fmt : ℕ) := by
    rw [abs_floatValue]
    push_cast
    field_simp
  rw [hquot, Rat.floor_natCast_div_natCast, Int.natCast_div]

theorem roundHalfAway_eq_floor (p : F64) :
    roundHalfAway p =
      if floatSign binary64 p.toNat then -⌊|floatValue binary64 p.toNat| + 1 / 2⌋
      else ⌊|floatValue binary64 p.toNat| + 1 / 2⌋ := by
  rw [floor_abs_floatValue_add_half, roundHalfAway]

/-- From `2 ^ fracBits` on a magnitude has no fraction. -/
theorem exists_natCast_of_large {fmt : FloatFormat} {m : Nat}
    (h : (2 : ℚ) ^ fmt.fracBits ≤ magnitudeUnits fmt m / unitsPerOne fmt) :
    ∃ c : ℕ, (magnitudeUnits fmt m : ℚ) / unitsPerOne fmt = c := by
  have hP : (0 : ℚ) < unitsPerOne fmt := by exact_mod_cast unitsPerOne_pos fmt
  replace h : 2 ^ fmt.fracBits * unitsPerOne fmt ≤ magnitudeUnits fmt m := by
    rw [le_div_iff₀ hP] at h
    exact_mod_cast h
  suffices hdvd : unitsPerOne fmt ∣ magnitudeUnits fmt m from ⟨_, (Nat.cast_div hdvd hP.ne').symm⟩
  obtain ⟨shift, sig, rfl, hlow, hhigh⟩ := exists_significand fmt m
  rw [magnitudeUnits_shift_add fmt hlow hhigh.le] at h ⊢
  have hpow : 2 ^ (fmt.fracBits + unitExp fmt) < 2 ^ (fmt.fracBits + 1 + shift) :=
    calc 2 ^ (fmt.fracBits + unitExp fmt) ≤ sig * 2 ^ shift := by rwa [pow_add]
      _ < 2 ^ (fmt.fracBits + 1 + shift) := by
        rw [pow_add _ (_ + 1)]; exact Nat.mul_lt_mul_of_pos_right hhigh (Nat.two_pow_pos shift)
  have hshift : unitExp fmt ≤ shift := by
    have := (Nat.pow_lt_pow_iff_right (le_refl 2)).mp hpow
    omega
  exact (pow_dvd_pow 2 hshift).mul_left sig

/-- So from `2^52` on the value is an integer, which rounding does not change. -/
theorem roundHalfAway_of_large {p : F64} (hfin : isNonfinite binary64 p.toNat = false)
    (hlarge : (2 : ℚ) ^ 52 ≤ |floatValue binary64 p.toNat|) : (roundHalfAway p : ℚ) = floatValue binary64 p.toNat := by
  obtain ⟨sign, m, hm, hp⟩ := (isFinitePattern_iff binary64).mp ⟨p.isLt, hfin⟩
  have hlt := hm.trans (infinityPattern_lt binary64)
  have hvalue := floatValue_signedPattern binary64 sign hlt
  have hunits := abs_floatValue binary64 p.toNat
  rw [hp, floatUnits_signedPattern _ _ hlt, ← hp] at hunits
  obtain ⟨c, hcast⟩ := exists_natCast_of_large (hunits ▸ hlarge)
  have hfloor : ⌊(c : ℚ) + 1 / 2⌋ = c := by
    rw [Int.floor_natCast_add]
    norm_num
  rw [roundHalfAway_eq_floor, hunits, hcast, hfloor, hp, hvalue, hcast, floatSign_signedPattern _ _ hlt]
  cases sign <;> simp

/-- Settles O52: units over units is the exact magnitude, and from `2^52` on it has no fraction. -/
theorem roundHalfAwayIsExact : Obligations.RoundHalfAwayIsExact := by
  unfold Obligations.RoundHalfAwayIsExact
  exact ⟨fun p hfin => ⟨roundHalfAway_eq_floor p, roundHalfAway_of_large hfin⟩, by decide +kernel⟩

/-! ### ENC.SCALED (R136) -/

theorem exec_encScaled (value : F64) {scale : Word} (hscale : scale ≠ 0) (signed : Bool) (s : State) :
    exec (.encScaled value scale signed) s =
      .next { s with outputs := s.outputs ++ [.result ((encScaled value scale signed).map .word)] } :=
  congrArg (fun r => Host.Outcome.next (s.deliver r)) (if_pos (bne_iff_ne.mpr hscale))

/-- The integers a word stands for, read as signed or not. -/
def wordRange (signed : Bool) (r : Int) : Prop :=
  if signed then -32768 ≤ r ∧ r ≤ 32767 else 0 ≤ r ∧ r ≤ 65535

section
variable {value : F64} {scale : Word} {signed : Bool}

theorem encScaled_ok (hvalue : isNonfinite binary64 value.toNat = false)
    (hproduct : isNonfinite binary64 (mulF64 value (f64OfInt scale.toNat)).toNat = false)
    (hrange : wordRange signed (roundHalfAway (mulF64 value (f64OfInt scale.toNat)))) :
    encScaled value scale signed = .ok (BitVec.ofInt 16 (roundHalfAway (mulF64 value (f64OfInt scale.toNat)))) := by
  cases signed <;> simp_all [encScaled, wordRange]

theorem encScaled_error (h : ¬(isNonfinite binary64 value.toNat = false ∧
    isNonfinite binary64 (mulF64 value (f64OfInt scale.toNat)).toNat = false ∧
    wordRange signed (roundHalfAway (mulF64 value (f64OfInt scale.toNat))))) :
    encScaled value scale signed = .error .valueOutOfRange := by
  cases hvalue : isNonfinite binary64 value.toNat
  case true => simp [encScaled, hvalue]
  cases hproduct : isNonfinite binary64 (mulF64 value (f64OfInt scale.toNat)).toNat
  case true => simp [encScaled, hvalue, hproduct]
  have hrange : ¬wordRange signed (roundHalfAway (mulF64 value (f64OfInt scale.toNat))) :=
    fun hr => h ⟨hvalue, hproduct, hr⟩
  cases signed
  all_goals
    simp only [wordRange, if_true, Bool.false_eq_true, if_false] at hrange
    simp only [encScaled, hvalue, hproduct, if_true, Bool.false_eq_true, if_false]
    exact if_pos (by omega)

end

theorem ofInt_toNat_eq_emod (r : Int) : ((BitVec.ofInt 16 r).toNat : Int) = r % 65536 := by
  rw [BitVec.toNat_ofInt, Int.toNat_of_nonneg (Int.emod_nonneg _ (by decide))]
  rfl

/-- Settles O53: the two answers of ENC.SCALED, a word being the integer's low 16 bits. -/
theorem encScaledResult : Obligations.EncScaledResult := by
  unfold Obligations.EncScaledResult
  refine ⟨fun value scale signed s hscale => ⟨?_, fun h => ?_⟩, fun _ _ _ => rfl⟩
  · rintro ⟨hvalue, hproduct, hrange⟩
    refine ⟨_, ofInt_toNat_eq_emod _, ?_⟩
    rw [exec_encScaled _ hscale, encScaled_ok hvalue hproduct hrange]
    rfl
  · rw [exec_encScaled _ hscale, encScaled_error h]
    rfl

/-! ### DEC.SCALED (R140) -/

theorem exec_decScaled (word : Word) {scale : Word} (hscale : scale ≠ 0) (signed : Bool) (s : State) :
    exec (.decScaled word scale signed) s =
      .next { s with outputs := s.outputs ++ [.result (.ok (.float (decScaled word scale signed)))] } :=
  congrArg (fun r => Host.Outcome.next (s.deliver r)) (if_pos (bne_iff_ne.mpr hscale))

/-- A natural number with at most `fracBits + 1` bits has a pattern. -/
theorem exists_magnitudeUnits_eq_natCast {fmt : FloatFormat} (hreg : fmt.Regular) {k : Nat}
    (hk : k < 2 ^ (fmt.fracBits + 1)) :
    ∃ m < infinityPattern fmt, magnitudeUnits fmt m = k * unitsPerOne fmt := by
  have hroom := hreg.exp_room
  refine exists_finite_magnitudeUnits_eq hreg hk (Nat.mul_lt_mul_of_pos_right ?_ (unitsPerOne_pos fmt))
  exact hk.trans_le (Nat.pow_le_pow_right two_pos (by omega))

/-- `f64(n)` is exact as far as the significand goes (R137). -/
theorem exists_magnitude_f64OfInt {n : Int} (hn : n.natAbs < 2 ^ 53) :
    ∃ m < infinityPattern binary64, (f64OfInt n).toNat = signedPattern binary64 (n < 0) m ∧
      magnitudeUnits binary64 m = n.natAbs * unitsPerOne binary64 := by
  obtain ⟨m, hm, hunits⟩ := exists_magnitudeUnits_eq_natCast binary64_regular hn
  refine ⟨m, hm, ?_, hunits⟩
  have hround : roundMagnitude binary64 n.natAbs 1 = m :=
    roundMagnitude_eq_of_units_eq binary64_regular one_pos hm.le (by rw [hunits, mul_one])
  rw [f64OfInt, hround, toNat_ofNat_signedPattern (w := 64) rfl _ (hm.trans (infinityPattern_lt _))]

theorem floatUnits_f64OfInt {n : Int} (hn : n.natAbs < 2 ^ 53) :
    floatUnits binary64 (f64OfInt n).toNat = n.natAbs * unitsPerOne binary64 := by
  obtain ⟨m, hm, hpattern, hunits⟩ := exists_magnitude_f64OfInt hn
  rw [hpattern, floatUnits_signedPattern _ _ (hm.trans (infinityPattern_lt _)), hunits]

theorem floatSign_f64OfInt {n : Int} (hn : n.natAbs < 2 ^ 53) :
    floatSign binary64 (f64OfInt n).toNat = decide (n < 0) := by
  obtain ⟨m, hm, hpattern, -⟩ := exists_magnitude_f64OfInt hn
  rw [hpattern, floatSign_signedPattern _ _ (hm.trans (infinityPattern_lt _))]

theorem floatValue_f64OfInt {n : Int} (hn : n.natAbs < 2 ^ 53) : floatValue binary64 (f64OfInt n).toNat = n := by
  have hP : (unitsPerOne binary64 : ℚ) ≠ 0 := by exact_mod_cast (unitsPerOne_pos _).ne'
  rw [floatValue, floatSign_f64OfInt hn, floatUnits_f64OfInt hn, Nat.cast_mul, mul_div_cancel_right₀ _ hP,
    Nat.cast_natAbs, Int.cast_abs]
  rcases lt_or_ge n 0 with hneg | hpos
  · simp [hneg, abs_of_neg (Int.cast_lt_zero.mpr hneg : (n : ℚ) < 0)]
  · simp [hpos.not_gt, abs_of_nonneg (Int.cast_nonneg hpos : (0 : ℚ) ≤ n)]

/-- The quotient of finite operands is the exact one correctly rounded (R140). -/
theorem correctlyRounded_divF64 (a : F64) {b : F64} (hb : 0 < floatUnits binary64 b.toNat) :
    CorrectlyRounded binary64 (floatValue binary64 a.toNat / floatValue binary64 b.toNat) (divF64 a b).toNat := by
  have hP : (unitsPerOne binary64 : ℚ) ≠ 0 := by exact_mod_cast (unitsPerOne_pos _).ne'
  have hquot : floatValue binary64 a.toNat / floatValue binary64 b.toNat =
      (if floatSign binary64 a.toNat != floatSign binary64 b.toNat then -1 else 1) *
        ((floatUnits binary64 a.toNat : ℚ) / floatUnits binary64 b.toNat) := by
    rw [floatValue, floatValue, mul_div_mul_comm, div_div_div_cancel_right₀ hP]
    cases floatSign binary64 a.toNat <;> cases floatSign binary64 b.toNat <;> simp
  rw [hquot, divF64, toNat_ofNat_signedPattern (w := 64) rfl _ (roundMagnitude_lt _ _ _)]
  exact correctlyRounded_roundMagnitude binary64_regular _ _ hb

theorem natAbs_wordInt_lt (signed : Bool) (word : Word) : (wordInt signed word).natAbs < 2 ^ 16 := by
  cases signed with
  | false => exact word.isLt
  | true =>
    have hlow := word.le_toInt
    have hhigh := word.toInt_lt
    simp only [wordInt, if_true]
    omega

section
variable (word : Word) {scale : Word} (hscale : scale ≠ 0) (signed : Bool)
include hscale

theorem scale_toNat_pos : 0 < scale.toNat := by
  rw [Nat.pos_iff_ne_zero]
  exact fun h => hscale (BitVec.eq_of_toNat_eq h)

theorem floatUnits_scale_pos : 0 < floatUnits binary64 (f64OfInt scale.toNat).toNat := by
  have hlt := scale.isLt
  rw [floatUnits_f64OfInt (by omega)]
  exact Nat.mul_pos (scale_toNat_pos hscale) (unitsPerOne_pos _)

theorem correctlyRounded_decScaled :
    CorrectlyRounded binary64 ((wordInt signed word : ℚ) / (scale.toNat : ℚ)) (decScaled word scale signed).toNat := by
  have hword := natAbs_wordInt_lt signed word
  have hlt := scale.isLt
  have h := correctlyRounded_divF64 (f64OfInt (wordInt signed word)) (floatUnits_scale_pos hscale)
  rwa [floatValue_f64OfInt (by omega), floatValue_f64OfInt (by omega), Int.cast_natCast] at h

/-- With a divisor of at least 1 the quotient is at most the word. -/
theorem abs_wordInt_div_lt : |(wordInt signed word : ℚ) / (scale.toNat : ℚ)| < 2 ^ 16 := by
  have hword : |(wordInt signed word : ℚ)| < 2 ^ 16 := by
    rw [← Int.cast_abs, ← Nat.cast_natAbs]
    exact_mod_cast natAbs_wordInt_lt signed word
  have hone : (1 : ℚ) ≤ scale.toNat := by exact_mod_cast scale_toNat_pos hscale
  rw [abs_div, Nat.abs_cast]
  exact (div_le_self (abs_nonneg _) hone).trans_lt hword

theorem isNonfinite_decScaled : isNonfinite binary64 (decScaled word scale signed).toNat = false := by
  rw [← Bool.not_eq_true, (correctlyRounded_decScaled word hscale signed).isNonfinite_iff, not_le]
  refine (abs_wordInt_div_lt word hscale signed).trans_le (le_trans ?_ (two_pow_le_overflowBound binary64_regular))
  exact pow_le_pow_right₀ one_le_two (by decide)

theorem decScaled_zero : decScaled 0 scale signed = 0 := by
  have hlt := scale.isLt
  have hzero : wordInt signed 0 = 0 := by cases signed <;> rfl
  have hnat : ¬(scale.toNat : Int) < 0 := by omega
  rw [decScaled, hzero, divF64, floatSign_f64OfInt (by decide), floatSign_f64OfInt (by omega),
    floatUnits_f64OfInt (n := 0) (by decide), Int.natAbs_zero, zero_mul,
    roundMagnitude_zero binary64_regular (floatUnits_scale_pos hscale), decide_eq_false hnat]
  rfl

end

/-- Settles O54: the division of two exact conversions, of magnitude below `2^16` and so far from overflow. -/
theorem decScaledResult : Obligations.DecScaledResult := by
  unfold Obligations.DecScaledResult
  refine ⟨fun word scale signed s hscale => ⟨_, correctlyRounded_decScaled word hscale signed,
    isNonfinite_decScaled word hscale signed, ?_, exec_decScaled word hscale signed s⟩, fun _ _ _ => rfl⟩
  rintro rfl
  exact decScaled_zero hscale signed

end Sys2Proof.Machine
end

section
/-! The responder (44_responder.md): what the step of a Gap35 makes of a validated frame, against the spec's
`resp_gap35` and `dispatch` (R163 to R171), and what a Responder emits (R172). -/

namespace Sys2Proof.Machine

/-! ### The decoder of requests by function code (R70, R72, R169) -/

theorem isExceptionFn_iff (fn : Byte) : isExceptionFn fn = true ↔ 0x80 ≤ fn.toNat := by
  have hmsb : isExceptionFn fn = fn.msb := rfl
  rw [hmsb, BitVec.msb_eq_decide, decide_eq_true_iff]

section
variable {f : Frame}

theorem decodeRequest_exception (h : 0x80 ≤ f.fn.toNat) : decodeRequest f = decodeException f :=
  if_pos ((isExceptionFn_iff _).mpr h)

theorem decodeRequest_read (h : f.fn = 0x03) : decodeRequest f = decodeTwoWords f (.rhr f.unit) := by
  rw [decodeRequest, h]
  rfl

theorem decodeRequest_writeSingle (h : f.fn = 0x06) : decodeRequest f = decodeTwoWords f (.wsr f.unit) := by
  rw [decodeRequest, h]
  rfl

theorem decodeRequest_writeMultiple (h : f.fn = 0x10) : decodeRequest f = decodeWriteMultiple f := by
  rw [decodeRequest, h]
  rfl

theorem decodeRequest_unsupported (hlt : f.fn.toNat < 0x80) (h3 : f.fn ≠ 0x03) (h6 : f.fn ≠ 0x06)
    (h10 : f.fn ≠ 0x10) : decodeRequest f = .error (.unsupportedFunction f.unit f.fn) := by
  have hexc : ¬isExceptionFn f.fn = true := mt (isExceptionFn_iff _).mp (Nat.not_le.mpr hlt)
  rw [decodeRequest, if_neg hexc]
  exact (if_neg h3).trans ((if_neg h6).trans (if_neg h10))

end

/-! ### What the step makes of a validated frame (R163) -/

namespace State

/-- What the Gap35 of a Responder does with a validated frame: the instruction it is, or the answer to a frame that is
none. -/
def serveFrame (f : Frame) (s : State) : Host.Outcome State Fault Refusal :=
  match decodeRequest f with
  | .ok i => exec i s
  | .error e => .next (s.rejectRequest e)

theorem serveFrame_ok {f : Frame} {i : Instr} (h : decodeRequest f = .ok i) (s : State) :
    s.serveFrame f = exec i s := by
  rw [serveFrame, h]

theorem serveFrame_error {f : Frame} {e : DecodeError} (h : decodeRequest f = .error e) (s : State) :
    s.serveFrame f = .next (s.rejectRequest e) := by
  rw [serveFrame, h]

end State

/-- What the Gap35 of a Responder does with the outcome of the window, the receive path being clear (R163). -/
def State.closeWindow (w : Window) (s : State) : Host.Outcome State Fault Refusal :=
  match w with
  | .noWindow => .next s
  | .dropped _ => .next { s with rstate := .idle }
  | .frame f => s.serveFrame f

theorem step_gap35_responder {s : State} {rest : List Input} (hr : s.cfg.role = .responder)
    (hin : s.inputs = .gap35 :: rest) :
    step s = ({ s with inputs := rest } : State).rxClear.closeWindow s.rxOutcome := by
  have hout : ({ s with inputs := rest } : State).rxOutcome = s.rxOutcome := rfl
  simp only [step, State.fetch, hin, State.accept, hr, State.responderGap35, hout]
  cases s.rxOutcome with
  | noWindow => rfl
  | dropped e => rfl
  | frame f =>
    simp only [State.closeWindow, State.serveFrame]
    cases decodeRequest f <;> rfl

theorem step_gap35_frame {s : State} {rest : List Input} {f : Frame} (hr : s.cfg.role = .responder)
    (hin : s.inputs = .gap35 :: rest) (hf : s.rxOutcome = .frame f) :
    step s = ({ s with inputs := rest } : State).rxClear.serveFrame f := by
  rw [step_gap35_responder hr hin, hf, State.closeWindow]

/-! ### Frames for another unit (R164) -/

theorem exec_frame_other_unit {i : Instr} {u : Byte} {s : State} (hr : s.cfg.role = .responder)
    (hi : frameUnit i = some u) (hu : u ≠ s.cfg.unit) : exec i s = .next { s with rstate := .idle } := by
  cases i <;> simp only [frameUnit, reduceCtorEq, Option.some.injEq] at hi <;> subst hi <;>
    simp only [exec, execRhr, execRhrR, execWsr, execWsrR, execWmr, execWmrR, execExc, hr, State.serve_other s hu]

theorem State.serveFrame_other_unit {f : Frame} {s : State} (hr : s.cfg.role = .responder)
    (hu : f.unit ≠ s.cfg.unit) : s.serveFrame f = .next { s with rstate := .idle } := by
  cases hd : decodeRequest f with
  | ok i => rw [serveFrame_ok hd, exec_frame_other_unit hr (decodeRequest_frameUnit hd) hu]
  | error e =>
    rw [serveFrame_error hd]
    rcases decodeRequest_error hd with rfl | rfl <;> rw [rejectRequest, serve_other s hu]

theorem step_gap35_other_unit {s : State} {rest : List Input} {f : Frame} (hr : s.cfg.role = .responder)
    (hin : s.inputs = .gap35 :: rest) (hf : s.rxOutcome = .frame f) (hu : f.unit ≠ s.cfg.unit) :
    step s = .next { s with inputs := rest, rxlen := 0, rxovf := false, gaperr := false, rstate := .idle } :=
  (step_gap35_frame hr hin hf).trans (State.serveFrame_other_unit (by exact hr) (by exact hu))

/-- A legal UNIT is 1 to 247 (R18). -/
theorem unit_range_of_legal {c : Config} (hl : c.legal = true) (hr : c.role = .responder) :
    1 ≤ c.unit.toNat ∧ c.unit.toNat ≤ 247 := by
  simp only [Config.legal, hr, Bool.and_eq_true, decide_eq_true_eq] at hl
  exact hl.1

/-- Settles O30: the frame that decodes and the one that does not both end at the unit filter, and a legal UNIT is in
1..247. -/
theorem framesForOtherUnitsAreIgnored : Obligations.FramesForOtherUnitsAreIgnored := by
  unfold Obligations.FramesForOtherUnitsAreIgnored
  refine ⟨fun s rest f => step_gap35_other_unit, fun i u s => exec_frame_other_unit, fun c u hl hr hu heq => ?_⟩
  obtain ⟨hmin, hmax⟩ := unit_range_of_legal hl hr
  subst heq
  rcases hu with h0 | hhigh
  · simp [h0] at hmin
  · omega

/-! ### Frames for UNIT that are no request (R169, R171) -/

/-- The frame a reply is emitted as (R100, R112). -/
def replyOutputs : Option Reply → List Output
  | none => []
  | some (unit, fn, payload) => [.emit (serialize unit fn payload)]

namespace State

/-- The state after a frame for UNIT: Idle, with the register file and the reply of `d` (R163). -/
def served (d : Memory × Option Reply) (s : State) : State :=
  { s with rstate := .idle, hr := d.1, outputs := s.outputs ++ replyOutputs d.2 }

theorem served_none (s : State) : s.served (s.hr, none) = { s with rstate := .idle } := by
  simp [served, replyOutputs]

/-- An action that puts a register file in place and emits one frame. -/
theorem serve_own_of_put {s : State} {action : State → State} {m : Memory} {reply : Reply}
    (h : action { s with rstate := .dispatched } = ({ s with rstate := .dispatched, hr := m } : State).put
      (.emit (serialize reply.1 reply.2.1 reply.2.2))) :
    s.serve s.cfg.unit action = s.served (m, some reply) := by
  rw [serve_own, h]
  rfl

theorem serve_own_respondException (s : State) (fn code : Byte) :
    s.serve s.cfg.unit (respondException s.cfg.unit fn code) =
      s.served (s.hr, some (s.cfg.unit, fn ||| 0x80, [code])) :=
  serve_own_of_put (respondException_eq _ _ _ _)

section
variable {f : Frame} {s : State}

theorem serveFrame_exception_own (hr : s.cfg.role = .responder) (hu : f.unit = s.cfg.unit)
    (hfn : 0x80 ≤ f.fn.toNat) : s.serveFrame f = .next { s with rstate := .idle } := by
  have hdec := decodeRequest_exception hfn
  rcases decodeException_cases f with ⟨code, -, hd⟩ | ⟨-, hd⟩
  · rw [serveFrame_ok (hdec.trans hd), exec, execExc, hr, hu, serve_own]
  · rw [serveFrame_error (hdec.trans hd), rejectRequest, hu, serve_own, (isExceptionFn_iff _).mpr hfn]
    rfl

theorem serveFrame_unsupported_own (hu : f.unit = s.cfg.unit) (hlt : f.fn.toNat < 0x80) (h3 : f.fn ≠ 0x03)
    (h6 : f.fn ≠ 0x06) (h10 : f.fn ≠ 0x10) :
    s.serveFrame f = .next (s.served (s.hr, some (s.cfg.unit, f.fn ||| 0x80, [0x01]))) := by
  rw [serveFrame_error (decodeRequest_unsupported hlt h3 h6 h10), rejectRequest, hu]
  exact congrArg _ (serve_own_respondException s _ _)

theorem serveFrame_badPdu_own (hu : f.unit = s.cfg.unit) (hlt : f.fn.toNat < 0x80)
    (hd : decodeRequest f = .error (.badPdu f.unit f.fn)) :
    s.serveFrame f = .next (s.served (s.hr, some (s.cfg.unit, f.fn ||| 0x80, [0x03]))) := by
  have hexc : isExceptionFn f.fn = false :=
    Bool.eq_false_iff.mpr (mt (isExceptionFn_iff _).mp (Nat.not_le.mpr hlt))
  rw [serveFrame_error hd, rejectRequest, hexc, hu]
  exact congrArg _ (serve_own_respondException s _ _)

end

end State

/-- Settles O34: the decoder rejects the one code and reads the other as an exception frame, whatever the payload. -/
theorem unsupportedFunctionsAnswered : Obligations.UnsupportedFunctionsAnswered := by
  unfold Obligations.UnsupportedFunctionsAnswered
  intro s rest f hr hin hf hu
  rw [step_gap35_frame hr hin hf]
  exact ⟨fun hlt h3 h6 h10 => State.serveFrame_unsupported_own (by exact hu) hlt h3 h6 h10,
    fun hfn => State.serveFrame_exception_own (by exact hr) (by exact hu) hfn⟩

/-! ### Requests to UNIT against `dispatch` (R166 to R168) -/

/-- Whole words of bytes, two at a time (R40, R68). -/
theorem bytesWords_eq_map_wordAt (n : Nat) (bs : List Byte) (h : bs.length = 2 * n) :
    bytesWords bs = (List.range n).map (fun i => wordAt bs (2 * i)) := by
  induction n generalizing bs with
  | zero =>
    obtain rfl := List.length_eq_zero_iff.mp h
    rfl
  | succ n ih =>
    match bs, h with
    | a :: b :: rest, h =>
      rw [bytesWords, ih rest (by simp only [List.length_cons] at h; omega), List.range_succ_eq_map, List.map_cons,
        List.map_map]
      rfl

/-! ### The pseudocode by function code -/

section
variable {f : Frame} {c : Config} (hr : Memory)

theorem dispatchPseudocode_read (hu : f.unit = c.unit) (hfn : f.fn = 0x03) {sh sl ch cl : Byte}
    (hp : f.payload = [sh, sl, ch, cl]) :
    dispatchPseudocode c hr f =
      if validRange c (mk16 sh sl).toNat (mk16 ch cl).toNat then
        (hr, some (c.unit, fnRead, readResponsePayload
          ((List.range (mk16 ch cl).toNat).map fun i => (hr.read ((mk16 sh sl).toNat + i)).getD 0)))
      else (hr, some (c.unit, fnRead ||| 0x80, [0x02])) := by
  cases hv : validRange c (mk16 sh sl).toNat (mk16 ch cl).toNat <;>
    simp [dispatchPseudocode, replyException, hu, hfn, hp, wordAt, byteAt, hv, fnRead, readResponsePayload,
      wordBytes_eq_flatMap]

theorem dispatchPseudocode_writeSingle (hu : f.unit = c.unit) (hfn : f.fn = 0x06) {ah al vh vl : Byte}
    (hp : f.payload = [ah, al, vh, vl]) :
    dispatchPseudocode c hr f =
      if validRange c (mk16 ah al).toNat 1 then
        (hr.writeMany (mk16 ah al).toNat [mk16 vh vl],
          some (c.unit, fnWriteSingle, twoWords (mk16 ah al) (mk16 vh vl)))
      else (hr, some (c.unit, fnWriteSingle ||| 0x80, [0x02])) := by
  cases hv : validRange c (mk16 ah al).toNat 1 <;>
    simp [dispatchPseudocode, replyException, hu, hfn, hp, wordAt, byteAt, hv, fnWriteSingle, Memory.writeMany, twoWords,
      wordBytes]

theorem dispatchPseudocode_writeMultiple (hu : f.unit = c.unit) (hfn : f.fn = 0x10) {sh sl ch cl byteCount : Byte}
    {rest : List Byte} (hp : f.payload = sh :: sl :: ch :: cl :: byteCount :: rest)
    (hrest : rest.length = byteCount.toNat) (hcount : byteCount.toNat = 2 * (mk16 ch cl).toNat) :
    dispatchPseudocode c hr f =
      if validRange c (mk16 sh sl).toNat (mk16 ch cl).toNat then
        (hr.writeMany (mk16 sh sl).toNat (bytesWords rest),
          some (c.unit, fnWriteMultiple, twoWords (mk16 sh sl) (mk16 ch cl)))
      else (hr, some (c.unit, fnWriteMultiple ||| 0x80, [0x02])) := by
  have hlen : f.payload.length = 5 + byteCount.toNat := by
    rw [hp, ← hrest]
    simp only [List.length_cons]
    omega
  have hvalues : (List.range (mk16 ch cl).toNat).map (fun i => wordAt f.payload (5 + 2 * i)) = bytesWords rest := by
    rw [hp, bytesWords_eq_map_wordAt _ rest (hrest.trans hcount)]
    refine List.map_congr_left fun i _ => ?_
    rw [Nat.add_comm]
    rfl
  have hstart : wordAt f.payload 0 = mk16 sh sl := by rw [hp]; rfl
  have hword : wordAt f.payload 2 = mk16 ch cl := by rw [hp]; rfl
  have hbyte : byteAt f.payload 4 = byteCount := by rw [hp]; rfl
  have htake : f.payload.take 4 = twoWords (mk16 sh sl) (mk16 ch cl) := by simp [hp, twoWords, wordBytes]
  cases hv : validRange c (mk16 sh sl).toNat (mk16 ch cl).toNat <;>
    simp [dispatchPseudocode, replyException, hu, hfn, hlen, hstart, hword, hbyte, hcount, hvalues, htake, hv,
      fnWriteMultiple]

theorem dispatchPseudocode_twoWords_badPdu (hu : f.unit = c.unit) (hfn : f.fn = 0x03 ∨ f.fn = 0x06)
    (hlen : f.payload.length ≠ 4) : dispatchPseudocode c hr f = (hr, some (c.unit, f.fn ||| 0x80, [0x03])) := by
  rcases hfn with hfn | hfn <;> simp [dispatchPseudocode, replyException, hu, hfn, hlen]

theorem dispatchPseudocode_writeMultiple_badPdu (hu : f.unit = c.unit) (hfn : f.fn = 0x10)
    (hbad : f.payload.length < 5 ∨ f.payload.length ≠ 5 + (byteAt f.payload 4).toNat ∨
      (byteAt f.payload 4).toNat ≠ 2 * (wordAt f.payload 2).toNat) :
    dispatchPseudocode c hr f = (hr, some (c.unit, f.fn ||| 0x80, [0x03])) := by
  rcases Nat.lt_or_ge f.payload.length 5 with hlt | hge
  · simp [dispatchPseudocode, replyException, hu, hfn, hlt]
  · simp only [dispatchPseudocode, replyException, hu, hfn, hbad.resolve_left (Nat.not_lt.mpr hge),
      Nat.not_lt.mpr hge]
    rfl

end

namespace State

section
variable {s : State} {start count : Word}

/-- R166: a valid range is answered with the words of its addresses, any other with exception 0x02. -/
theorem serve_own_serveRead (hr : s.cfg.role = .responder) (hseed : seededBy s.cfg s.hr = true) :
    s.serve s.cfg.unit (serveRead start count) = s.served
      (if validRange s.cfg start.toNat count.toNat then
        (s.hr, some (s.cfg.unit, fnRead, readResponsePayload
          ((List.range count.toNat).map fun i => (s.hr.read (start.toNat + i)).getD 0)))
      else (s.hr, some (s.cfg.unit, fnRead ||| 0x80, [0x02]))) := by
  have hread := readRegs_seeded (s := { s with rstate := .dispatched }) hr hseed start.toNat count.toNat
  rcases serveRead_cases start count { s with rstate := .dispatched } with ⟨ws, hok, -, -, h⟩ | ⟨herr, h⟩
  · rw [hok] at hread
    split at hread <;> cases hread
    rw [if_pos (by assumption)]
    exact serve_own_of_put h
  · rw [herr] at hread
    split at hread <;> cases hread
    rw [if_neg (by assumption)]
    exact serve_own_of_put h

/-- R167, R168: a valid range is written and answered with the response, any other with exception 0x02. -/
theorem serve_own_serveWrite {fn : Byte} {vs : List Word} {response : List Byte} (hlen : response.length ≤ maxPayload) :
    s.serve s.cfg.unit (serveWrite fn start vs response) = s.served
      (if validRange s.cfg start.toNat vs.length then
        (s.hr.writeMany start.toNat vs, some (s.cfg.unit, fn, response))
      else (s.hr, some (s.cfg.unit, fn ||| 0x80, [0x02]))) := by
  rcases serveWrite_cases fn start vs response { s with rstate := .dispatched } hlen with ⟨hv, h⟩ | ⟨hv, h⟩
  · rw [if_pos (by exact hv)]
    exact serve_own_of_put h
  · rw [if_neg (by exact Bool.eq_false_iff.mp hv)]
    exact serve_own_of_put h

end

section
variable {f : Frame} {s : State}

/-- RHR, in a register file with a word for every mapped address (R166). -/
theorem serveFrame_read_own (hr : s.cfg.role = .responder) (hseed : seededBy s.cfg s.hr = true)
    (hu : f.unit = s.cfg.unit) (hfn : f.fn = 0x03) :
    s.serveFrame f = .next (s.served (dispatchPseudocode s.cfg s.hr f)) := by
  have hdec := decodeRequest_read hfn
  rcases decodeTwoWords_cases f (.rhr f.unit) with ⟨sh, sl, ch, cl, hp, hd⟩ | ⟨hlen, hd⟩
  · rw [serveFrame_ok (hdec.trans hd), exec, execRhr, hr, hu, serve_own_serveRead hr hseed,
      dispatchPseudocode_read _ hu hfn hp]
  · rw [serveFrame_badPdu_own hu (by rw [hfn]; decide) (hdec.trans hd),
      dispatchPseudocode_twoWords_badPdu _ hu (.inl hfn) hlen]

/-- WSR (R167). -/
theorem serveFrame_writeSingle_own (hr : s.cfg.role = .responder) (hu : f.unit = s.cfg.unit) (hfn : f.fn = 0x06) :
    s.serveFrame f = .next (s.served (dispatchPseudocode s.cfg s.hr f)) := by
  have hdec := decodeRequest_writeSingle hfn
  rcases decodeTwoWords_cases f (.wsr f.unit) with ⟨ah, al, vh, vl, hp, hd⟩ | ⟨hlen, hd⟩
  · rw [serveFrame_ok (hdec.trans hd), exec, execWsr, hr, hu, serve_own_serveWrite (by simp [maxPayload]),
      dispatchPseudocode_writeSingle _ hu hfn hp]
    rfl
  · rw [serveFrame_badPdu_own hu (by rw [hfn]; decide) (hdec.trans hd),
      dispatchPseudocode_twoWords_badPdu _ hu (.inr hfn) hlen]

/-- WMR (R168). -/
theorem serveFrame_writeMultiple_own (hr : s.cfg.role = .responder) (hu : f.unit = s.cfg.unit) (hfn : f.fn = 0x10) :
    s.serveFrame f = .next (s.served (dispatchPseudocode s.cfg s.hr f)) := by
  have hdec := decodeRequest_writeMultiple hfn
  rcases decodeWriteMultiple_cases f with ⟨sh, sl, ch, cl, bc, rest, hp, hrest, hcount, hd⟩ | ⟨hbad, hd⟩
  · have hlen : (bytesWords rest).length = (mk16 ch cl).toNat := by
      rw [bytesWords_length]
      omega
    rw [serveFrame_ok (hdec.trans hd), exec, execWmr, hr, hu, serve_own_serveWrite (by simp [maxPayload]), hlen,
      BitVec.ofNat_toNat, BitVec.setWidth_eq, dispatchPseudocode_writeMultiple _ hu hfn hp hrest hcount]
  · rw [serveFrame_badPdu_own hu (by rw [hfn]; decide) (hdec.trans hd),
      dispatchPseudocode_writeMultiple_badPdu _ hu hfn hbad]

/-- R163, R165: to UNIT the Responder does what `dispatch` does. -/
theorem serveFrame_own_eq_dispatch (hr : s.cfg.role = .responder) (hseed : seededBy s.cfg s.hr = true)
    (hu : f.unit = s.cfg.unit) : s.serveFrame f = .next (s.served (dispatchPseudocode s.cfg s.hr f)) := by
  by_cases hfn : 0x80 ≤ f.fn.toNat
  · rw [serveFrame_exception_own hr hu hfn, dispatchPseudocode, if_pos hfn, served_none]
  by_cases h3 : f.fn = 0x03
  · exact serveFrame_read_own hr hseed hu h3
  by_cases h6 : f.fn = 0x06
  · exact serveFrame_writeSingle_own hr hu h6
  by_cases h10 : f.fn = 0x10
  · exact serveFrame_writeMultiple_own hr hu h10
  rw [serveFrame_unsupported_own hu (Nat.not_le.mp hfn) h3 h6 h10, dispatchPseudocode, if_neg hfn, if_neg h3, if_neg h6,
    if_neg h10, replyException, hu]

end

end State

/-- The step on a validated frame for UNIT is the pseudocode's `dispatch` (R163, R165). -/
theorem step_gap35_own {s : State} {rest : List Input} {f : Frame} (hr : s.cfg.role = .responder)
    (hseed : seededBy s.cfg s.hr = true) (hin : s.inputs = .gap35 :: rest) (hf : s.rxOutcome = .frame f)
    (hu : f.unit = s.cfg.unit) :
    step s = .next (({ s with inputs := rest } : State).rxClear.served (dispatchPseudocode s.cfg s.hr f)) :=
  (step_gap35_frame hr hin hf).trans (State.serveFrame_own_eq_dispatch (by exact hr) (by exact hseed) (by exact hu))

/-- Settles O28: by the outcome of the window, a frame for UNIT by its function code and the format of its payload. -/
theorem responderStepRefinesDispatch : Obligations.ResponderStepRefinesDispatch := by
  unfold Obligations.ResponderStepRefinesDispatch
  intro s rest hinv hr hin
  cases hw : s.rxOutcome with
  | noWindow =>
    rw [step_gap35_responder hr hin, hw]
    rfl
  | dropped e =>
    rw [step_gap35_responder hr hin, hw]
    rfl
  | frame f =>
    by_cases hu : f.unit = s.cfg.unit
    · rw [step_gap35_own hr hinv.seeded hin hw hu]
      simp only [hu, ne_eq, not_true_eq_false, if_false]
      rcases dispatchPseudocode s.cfg s.hr f with ⟨hr', _ | reply⟩ <;> rfl
    · rw [step_gap35_other_unit hr hin hw hu]
      simp only [ne_eq, hu, not_false_eq_true, if_true]

/-! ### What a Responder emits (R172) -/

/-- A reply to the request `f` as R172 has it: from `unit`, of at most 251 payload bytes, with the request's function
code, or an exception frame of a code 0x01, 0x02 or 0x03. -/
structure AnswersRequest (unit : Byte) (f : Frame) (reply : Reply) : Prop where
  request_lt : f.fn.toNat < 0x80
  unit_eq    : reply.1 = unit
  length_le  : reply.2.2.length ≤ 251
  function   : reply.2.1 = f.fn ∨
    (reply.2.1 = f.fn ||| 0x80 ∧ (reply.2.2 = [0x01] ∨ reply.2.2 = [0x02] ∨ reply.2.2 = [0x03]))

section
variable {c : Config} {hr : Memory} {f : Frame} {reply : Reply}

theorem answersRequest_replyException {code : Byte} (hlt : f.fn.toNat < 0x80) (hu : f.unit = c.unit)
    (hcode : code = 0x01 ∨ code = 0x02 ∨ code = 0x03) : AnswersRequest c.unit f (replyException f code) := by
  refine ⟨hlt, hu, by simp [replyException], .inr ⟨rfl, ?_⟩⟩
  rcases hcode with rfl | rfl | rfl <;> simp [replyException]

/-- Every reply of `dispatch` is an exception frame or the normal response of one of the three functions. -/
theorem answersRequest_of_dispatch (hu : f.unit = c.unit) (h : (dispatchPseudocode c hr f).2 = some reply) :
    AnswersRequest c.unit f reply := by
  unfold dispatchPseudocode at h
  dsimp only at h
  split_ifs at h with hge h3 hlen hv h6 hlen hv h10 hlen hcount hv <;> cases h
  any_goals exact answersRequest_replyException (Nat.not_le.mp hge) hu (by decide)
  -- what is left are the normal responses, of RHR, WSR and WMR
  · obtain ⟨⟨-, hcount, -⟩, -⟩ := (validRange_iff _ _ _).mp hv
    refine ⟨Nat.not_le.mp hge, rfl, ?_, .inl h3.symm⟩
    rw [← wordBytes_eq_flatMap]
    simp only [List.length_cons, wordBytes_length, List.length_map, List.length_range]
    omega
  · exact ⟨Nat.not_le.mp hge, rfl, by simp only; omega, .inl h6.symm⟩
  · exact ⟨Nat.not_le.mp hge, rfl, by simp only [List.length_take]; omega, .inl h10.symm⟩

end

theorem emitted_newOutputs_of_append {s t : State} {os : List Output} (h : t.outputs = s.outputs ++ os) :
    emitted (newOutputs s t) = emitted os := by
  rw [newOutputs, h, List.drop_left]

theorem emitted_newOutputs_of_eq {s t : State} (h : t.outputs = s.outputs) : emitted (newOutputs s t) = [] :=
  emitted_newOutputs_of_append (os := []) (by rw [h, List.append_nil])

@[simp] theorem State.onRxByte_outputs (b : Byte) (s : State) : (s.onRxByte b).outputs = s.outputs := by
  unfold onRxByte
  split
  · split <;> simp
  · split <;> simp

@[simp] theorem State.onGap15_outputs (s : State) : s.onGap15.outputs = s.outputs := by
  unfold onGap15
  split
  · simp
  · split <;> simp

/-- A host command at a Responder emits no frame: it sends no request and has no exchange to cancel. -/
theorem CommandEffect.emitted_eq_nil {s t : State} (h : CommandEffect s t) (hr : s.cfg.role = .responder) :
    emitted (newOutputs s t) = [] := by
  cases h with
  | answer | crc | write =>
    rw [emitted_newOutputs_of_append rfl]
    rfl
  | send unit start count timeout meas hr' => cases hr.symm.trans hr'
  | cancel hr' => cases hr.symm.trans hr'

/-- R172: no step of a Responder but that of a Gap35 emits a frame. -/
theorem StepEffect.emitted_eq_nil {s t : State} {e : Input} {rest : List Input}
    (h : StepEffect s { s with inputs := rest } e t) (hr : s.cfg.role = .responder) (hreset : isReset e = false)
    (hgap : e ≠ .gap35) : emitted (newOutputs s t) = [] := by
  cases h with
  | rxByte b => exact emitted_newOutputs_of_eq (State.onRxByte_outputs b _)
  | gap15 => exact emitted_newOutputs_of_eq (State.onGap15_outputs _)
  | timeoutIgnored => exact emitted_newOutputs_of_eq rfl
  | timeout hr' => cases hr.symm.trans hr'
  | reserved p x hd =>
    rw [emitted_newOutputs_of_append rfl]
    rfl
  | command p i t hd hexec =>
    obtain ⟨hframe, -⟩ := decodeCommand_opsel hd
    obtain ⟨t', hexec', heffect⟩ := exec_command i { s with inputs := rest } hframe
    cases hexec.symm.trans hexec'
    exact heffect.emitted_eq_nil hr
  | reset => cases hreset
  | noWindow | dropped | request | badRequest | idleGap | emptyGap | discarded | response => exact absurd rfl hgap

/-- R172: what the Gap35 of a Responder emits is one reply to a validated request for UNIT. -/
theorem emitted_of_step_gap35 {s t : State} {rest : List Input} (hr : s.cfg.role = .responder)
    (hseed : seededBy s.cfg s.hr = true) (hin : s.inputs = .gap35 :: rest) (h : step s = .next t) :
    emitted (newOutputs s t) = [] ∨ ∃ (f : Frame) (unit fn : Byte) (payload : List Byte),
      frameDecode s.window = .ok f ∧ f.unit = s.cfg.unit ∧ AnswersRequest s.cfg.unit f (unit, fn, payload) ∧
      emitted (newOutputs s t) = [serialize unit fn payload] := by
  cases hw : s.rxOutcome with
  | noWindow =>
    rw [step_gap35_responder hr hin, hw] at h
    cases h
    exact .inl (emitted_newOutputs_of_eq rfl)
  | dropped e =>
    rw [step_gap35_responder hr hin, hw] at h
    cases h
    exact .inl (emitted_newOutputs_of_eq rfl)
  | frame f =>
    by_cases hu : f.unit = s.cfg.unit
    · rw [step_gap35_own hr hseed hin hw hu] at h
      cases h
      rw [emitted_newOutputs_of_append rfl]
      cases hreply : (dispatchPseudocode s.cfg s.hr f).2 with
      | none => exact .inl rfl
      | some reply =>
        obtain ⟨unit, fn, payload⟩ := reply
        exact .inr ⟨f, unit, fn, payload, State.rxOutcome_frame hw, hu, answersRequest_of_dispatch hu hreply, rfl⟩
    · rw [step_gap35_other_unit hr hin hw hu] at h
      cases h
      exact .inl (emitted_newOutputs_of_eq rfl)

/-- Settles O36: every step but a Gap35 emits nothing, and a reply of `dispatch`, serialized, decodes to itself. -/
theorem responderEmitsOneWellFormedFrame : Obligations.ResponderEmitsOneWellFormedFrame := by
  unfold Obligations.ResponderEmitsOneWellFormedFrame
  intro s t hinv hr h hreset
  rcases step_effect h with ⟨-, rfl⟩ | ⟨e, rest, hin, heffect⟩
  · exact .inl (emitted_newOutputs_of_eq rfl)
  by_cases hgap : e = .gap35
  · subst hgap
    refine (emitted_of_step_gap35 hr hinv.seeded hin h).imp_right ?_
    rintro ⟨f, unit, fn, payload, hdecode, hu, ⟨hlt, rfl, hlen, hfn⟩, hemit⟩
    exact ⟨f, _, _, rest, hin, hdecode, hu, hlt, hemit,
      frameDecode_serialize (hlen.trans (by decide)) _ _, rfl, hlen, hfn⟩
  · exact .inl (heffect.emitted_eq_nil hr (hreset e rest hin) hgap)

end Sys2Proof.Machine
end

section
/-! Encoding (30_encoding.md): the decoder reads an instruction back from its encoding, at each role that reads it, and
a frame that decodes is the encoding of what it decodes to (R60 to R69, R77, R80). -/

namespace Sys2Proof

open Sys2Proof.Machine

/-! ### The exception bit of a function code (R67) -/

theorem isExceptionFn_exceptionFn (fn : BitVec 7) : isExceptionFn (exceptionFn fn) = true := by
  simp [isExceptionFn, exceptionFn]

@[simp] theorem requestFn_exceptionFn (fn : BitVec 7) : requestFn (exceptionFn fn) = fn := by
  revert fn
  decide

theorem exceptionFn_requestFn {fn : Byte} (h : isExceptionFn fn = true) : exceptionFn (requestFn fn) = fn := by
  revert fn
  decide

/-! ### The decoder of responses by function code (R70, R73) -/

section
variable {f : Frame}

theorem decodeResponse_exception (h : 0x80 ≤ f.fn.toNat) : decodeResponse f = decodeException f :=
  if_pos ((isExceptionFn_iff _).mpr h)

theorem decodeResponse_read (h : f.fn = 0x03) : decodeResponse f = decodeReadResponse f := by
  rw [decodeResponse, h]
  rfl

theorem decodeResponse_writeSingle (h : f.fn = 0x06) : decodeResponse f = decodeTwoWords f (.wsrR f.unit) := by
  rw [decodeResponse, h]
  rfl

theorem decodeResponse_writeMultiple (h : f.fn = 0x10) : decodeResponse f = decodeTwoWords f (.wmrR f.unit) := by
  rw [decodeResponse, h]
  rfl

theorem decodeResponse_unsupported (hlt : f.fn.toNat < 0x80) (h3 : f.fn ≠ 0x03) (h6 : f.fn ≠ 0x06)
    (h10 : f.fn ≠ 0x10) : decodeResponse f = .error (.unsupportedFunction f.unit f.fn) := by
  have hexc : ¬isExceptionFn f.fn = true := mt (isExceptionFn_iff _).mp (Nat.not_le.mpr hlt)
  rw [decodeResponse, if_neg hexc]
  exact (if_neg h3).trans ((if_neg h6).trans (if_neg h10))

/-- A read response of whole registers whose byte count is that of the bytes after it, or a bad PDU (R64, R190). -/
theorem decodeReadResponse_cases (f : Frame) :
    (∃ byteCount rest, f.payload = byteCount :: rest ∧ rest.length = byteCount.toNat ∧ rest.length % 2 = 0 ∧
      decodeReadResponse f = .ok (.rhrR f.unit (bytesWords rest))) ∨
    ((f.payload.length = 0 ∨ (byteAt f.payload 0).toNat ≠ f.payload.length - 1 ∨ (f.payload.length - 1) % 2 ≠ 0) ∧
      decodeReadResponse f = .error (.badPdu f.unit f.fn)) := by
  cases hp : f.payload with
  | nil => exact .inr ⟨.inl rfl, by simp only [decodeReadResponse, hp]⟩
  | cons byteCount rest =>
    by_cases hfit : rest.length = byteCount.toNat ∧ rest.length % 2 = 0
    · exact .inl ⟨byteCount, rest, rfl, hfit.1, hfit.2, by simp only [decodeReadResponse, hp]; exact if_pos hfit⟩
    · refine .inr ⟨.inr ?_, by simp only [decodeReadResponse, hp]; exact if_neg hfit⟩
      have hbyte : byteAt (byteCount :: rest) 0 = byteCount := rfl
      simp only [hbyte, List.length_cons, Nat.add_sub_cancel]
      omega

end

/-! ### Payloads read back (R63 to R68) -/

section
variable (unit fn : Byte) (crc : Word)

theorem decodeTwoWords_twoWords (a b : Word) (k : Word → Word → Instr) :
    decodeTwoWords { unit := unit, fn := fn, payload := twoWords a b, crc := crc } k = .ok (k a b) := by
  simp [decodeTwoWords, twoWords, wordBytes]

theorem decodeReadResponse_readResponsePayload {words : List Word} (h : words.length ≤ maxResponseWords) :
    decodeReadResponse { unit := unit, fn := fn, payload := readResponsePayload words, crc := crc } =
      .ok (.rhrR unit words) := by
  have hcount : 2 * words.length < 256 := by simp only [maxResponseWords] at h; omega
  simp [decodeReadResponse, readResponsePayload, Nat.mod_eq_of_lt hcount]

theorem decodeWriteMultiple_writeMultiplePayload (start : Word) {values : List Word}
    (h : values.length ≤ maxRequestWords) :
    decodeWriteMultiple { unit := unit, fn := fn, payload := writeMultiplePayload start values, crc := crc } =
      .ok (.wmr unit start values) := by
  have hcount : 2 * values.length < 256 := by simp only [maxRequestWords] at h; omega
  have hword : values.length < 65536 := by omega
  simp [decodeWriteMultiple, writeMultiplePayload, twoWords, wordBytes, Nat.mod_eq_of_lt hcount, Nat.mod_eq_of_lt hword]

end

/-- A serialized frame is decoded by the role's direction (R62). -/
theorem decode_frame_serialize (role : Role) (unit fn : Byte) {payload : List Byte} (h : payload.length ≤ maxPayload) :
    decode role (.frame (serialize unit fn payload)) =
      decodeFrame role { unit := unit, fn := fn, payload := payload, crc := crc16 (unit :: fn :: payload) } := by
  rw [decode, frameDecode_serialize h]

/-! ### The host port's lines read back (R80) -/

@[simp] theorem orderOfBit_orderBit (order : Order) : orderOfBit (orderBit order) = order := by
  cases order <;> rfl

@[simp] theorem spanOfBit_spanBit (span : Span) : spanOfBit (spanBit span) = span := by
  cases span <;> rfl

@[simp] theorem boolBit_eq_one_iff (b : Bool) : boolBit b = 1#1 ↔ b = true := by
  cases b <;> simp [boolBit]

@[simp] theorem portDescriptor_withDescriptor (p : HostPort) (d : Descriptor) :
    portDescriptor (withDescriptor p d) = d := by
  simp [portDescriptor, withDescriptor]

/-- The command an instruction without a frame is encoded as decodes to it. -/
theorem decode_encode_command {i : Instr} (hi : frameUnit i = none) (role : Role) : decode role (encode i) = .ok i := by
  cases i <;> simp only [frameUnit, reduceCtorEq] at hi <;> simp only [encode, decode]
  case encMeas value d =>
    exact congrArg (fun d => Except.ok (Instr.encMeas value d)) (portDescriptor_withDescriptor _ d)
  case decMeas words d =>
    exact congrArg (fun d => Except.ok (Instr.decMeas words d)) (portDescriptor_withDescriptor _ d)
  case rqReadMeas unit addr d timeout =>
    exact congrArg (fun d => Except.ok (Instr.rqReadMeas unit addr d timeout)) (portDescriptor_withDescriptor _ d)
  case encScaled | decScaled | encF32 | decF32 => simp [decodeCommand]
  all_goals rfl

/-- A wire frame decodes to itself at each role that reads it. -/
theorem decode_encode_frame {i : Instr} {role : Role} (hi : frameUnit i ≠ none) (hwf : WellFormed i = true)
    (hread : readBy role i = true) : decode role (encode i) = .ok i := by
  cases i <;> simp only [frameUnit, ne_eq, not_true_eq_false] at hi <;>
    simp only [readBy, decide_eq_true_eq] at hread <;> rw [encode]
  case rhr unit start count =>
    rw [hread, decode_frame_serialize _ _ _ (by simp [maxPayload])]
    exact (decodeRequest_read rfl).trans (decodeTwoWords_twoWords unit fnRead _ start count _)
  case wsr unit addr value =>
    rw [hread, decode_frame_serialize _ _ _ (by simp [maxPayload])]
    exact (decodeRequest_writeSingle rfl).trans (decodeTwoWords_twoWords unit fnWriteSingle _ addr value _)
  case wsrR unit addr value =>
    rw [hread, decode_frame_serialize _ _ _ (by simp [maxPayload])]
    exact (decodeResponse_writeSingle rfl).trans (decodeTwoWords_twoWords unit fnWriteSingle _ addr value _)
  case wmrR unit start count =>
    rw [hread, decode_frame_serialize _ _ _ (by simp [maxPayload])]
    exact (decodeResponse_writeMultiple rfl).trans (decodeTwoWords_twoWords unit fnWriteMultiple _ start count _)
  case rhrR unit words =>
    have hlen : words.length ≤ 125 := of_decide_eq_true hwf
    rw [hread, decode_frame_serialize _ _ _ (by simp only [readResponsePayload_length, maxPayload]; omega)]
    exact (decodeResponse_read rfl).trans (decodeReadResponse_readResponsePayload unit fnRead _ hlen)
  case wmr unit start values =>
    have hlen : values.length ≤ 123 := of_decide_eq_true hwf
    rw [hread, decode_frame_serialize _ _ _ (by simp only [writeMultiplePayload_length, maxPayload]; omega)]
    exact (decodeRequest_writeMultiple rfl).trans
      (decodeWriteMultiple_writeMultiplePayload unit fnWriteMultiple _ start hlen)
  case exc unit fn code =>
    rw [decode_frame_serialize _ _ _ (by simp [maxPayload])]
    cases role <;> simp [decodeFrame, decodeRequest, decodeResponse, isExceptionFn_exceptionFn, decodeException]

/-- Settles O12: a command by its lines, a wire frame by its function code and its payload. -/
theorem decodeReadsBackEveryEncoding : Obligations.DecodeReadsBackEveryEncoding := by
  unfold Obligations.DecodeReadsBackEveryEncoding
  intro role i hwf hread
  by_cases hi : frameUnit i = none
  · exact decode_encode_command hi role
  · exact decode_encode_frame hi hwf hread

/-! ### What a frame decodes to has its payload (R60 to R69) -/

section
variable {f : Frame} {i : Instr}

theorem payload_of_decodeException (h : decodeException f = .ok i) :
    ∃ code, i = .exc f.unit (requestFn f.fn) code ∧ f.payload = [code] := by
  rcases decodeException_cases f with ⟨code, hp, hd⟩ | ⟨-, hd⟩ <;> cases hd.symm.trans h
  exact ⟨code, rfl, hp⟩

theorem payload_of_decodeTwoWords {k : Word → Word → Instr} (h : decodeTwoWords f k = .ok i) :
    ∃ a b, i = k a b ∧ f.payload = twoWords a b := by
  rcases decodeTwoWords_cases f k with ⟨a, b, c, d, hp, hd⟩ | ⟨-, hd⟩ <;> cases hd.symm.trans h
  exact ⟨_, _, rfl, by simp [hp, twoWords, wordBytes]⟩

theorem payload_of_decodeReadResponse (h : decodeReadResponse f = .ok i) :
    ∃ words, i = .rhrR f.unit words ∧ f.payload = readResponsePayload words := by
  rcases decodeReadResponse_cases f with ⟨byteCount, rest, hp, hlen, heven, hd⟩ | ⟨-, hd⟩ <;> cases hd.symm.trans h
  have hcount : 2 * (bytesWords rest).length = byteCount.toNat := by rw [bytesWords_length]; omega
  exact ⟨_, rfl, by simp [hp, readResponsePayload, hcount, wordBytes_bytesWords rest heven]⟩

theorem payload_of_decodeWriteMultiple (h : decodeWriteMultiple f = .ok i) :
    ∃ start values, i = .wmr f.unit start values ∧ f.payload = writeMultiplePayload start values := by
  rcases decodeWriteMultiple_cases f with ⟨sh, sl, ch, cl, byteCount, rest, hp, hlen, heven, hd⟩ | ⟨-, hd⟩ <;>
    cases hd.symm.trans h
  have hwords : (bytesWords rest).length = (mk16 ch cl).toNat := by rw [bytesWords_length]; omega
  refine ⟨_, _, rfl, ?_⟩
  simp [hp, writeMultiplePayload, twoWords, wordBytes, hwords, ← heven, wordBytes_bytesWords rest (by omega)]

/-- `i` is a well-formed instruction of the direction `role` reads, and `f` is the frame it is encoded as. -/
def EncodedBy (role : Role) (f : Frame) (i : Instr) : Prop :=
  encode i = .frame (serialize f.unit f.fn f.payload) ∧ WellFormed i = true ∧ readBy role i = true

theorem encodedBy_of_decodeException (role : Role) (hfn : 0x80 ≤ f.fn.toNat) (h : decodeException f = .ok i) :
    EncodedBy role f i := by
  obtain ⟨code, rfl, hp⟩ := payload_of_decodeException h
  exact ⟨by rw [encode, exceptionFn_requestFn ((isExceptionFn_iff _).mpr hfn), hp], rfl, rfl⟩

theorem encodedBy_of_decodeRequest (hlen : f.payload.length ≤ maxPayload) (h : decodeRequest f = .ok i) :
    EncodedBy .responder f i := by
  by_cases hfn : 0x80 ≤ f.fn.toNat
  · exact encodedBy_of_decodeException _ hfn (decodeRequest_exception hfn ▸ h)
  by_cases h3 : f.fn = 0x03
  · obtain ⟨a, b, rfl, hp⟩ := payload_of_decodeTwoWords (decodeRequest_read h3 ▸ h)
    exact ⟨by rw [h3, hp]; rfl, rfl, rfl⟩
  by_cases h6 : f.fn = 0x06
  · obtain ⟨a, b, rfl, hp⟩ := payload_of_decodeTwoWords (decodeRequest_writeSingle h6 ▸ h)
    exact ⟨by rw [h6, hp]; rfl, rfl, rfl⟩
  by_cases h10 : f.fn = 0x10
  · obtain ⟨start, values, rfl, hp⟩ := payload_of_decodeWriteMultiple (decodeRequest_writeMultiple h10 ▸ h)
    rw [hp, writeMultiplePayload_length, maxPayload] at hlen
    exact ⟨by rw [h10, hp]; rfl, decide_eq_true (by rw [maxRequestWords]; omega), rfl⟩
  · cases (decodeRequest_unsupported (Nat.not_le.mp hfn) h3 h6 h10).symm.trans h

theorem encodedBy_of_decodeResponse (hlen : f.payload.length ≤ maxPayload) (h : decodeResponse f = .ok i) :
    EncodedBy .requester f i := by
  by_cases hfn : 0x80 ≤ f.fn.toNat
  · exact encodedBy_of_decodeException _ hfn (decodeResponse_exception hfn ▸ h)
  by_cases h3 : f.fn = 0x03
  · obtain ⟨words, rfl, hp⟩ := payload_of_decodeReadResponse (decodeResponse_read h3 ▸ h)
    rw [hp, readResponsePayload_length, maxPayload] at hlen
    exact ⟨by rw [h3, hp]; rfl, decide_eq_true (by rw [maxResponseWords]; omega), rfl⟩
  by_cases h6 : f.fn = 0x06
  · obtain ⟨a, b, rfl, hp⟩ := payload_of_decodeTwoWords (decodeResponse_writeSingle h6 ▸ h)
    exact ⟨by rw [h6, hp]; rfl, rfl, rfl⟩
  by_cases h10 : f.fn = 0x10
  · obtain ⟨a, b, rfl, hp⟩ := payload_of_decodeTwoWords (decodeResponse_writeMultiple h10 ▸ h)
    exact ⟨by rw [h10, hp]; rfl, rfl, rfl⟩
  · cases (decodeResponse_unsupported (Nat.not_le.mp hfn) h3 h6 h10).symm.trans h

end

/-- Settles O13: only serialized frames decode, and each format's payload is that of the instruction read from it. -/
theorem everyDecodedFrameIsAnEncoding : Obligations.EveryDecodedFrameIsAnEncoding := by
  unfold Obligations.EveryDecodedFrameIsAnEncoding
  intro role raw i h
  rw [decode] at h
  cases hd : frameDecode raw with
  | error e => rw [hd] at h; cases h
  | ok f =>
    rw [hd] at h
    obtain ⟨hlen, rfl⟩ := eq_serialize_of_frameDecode_ok hd
    cases role with
    | responder => exact encodedBy_of_decodeRequest hlen h
    | requester => exact encodedBy_of_decodeResponse hlen h

/-- Settles O14: each word is evaluated. -/
theorem writtenOutWordsDecode : Obligations.WrittenOutWordsDecode := by
  unfold Obligations.WrittenOutWordsDecode
  decide +kernel

end Sys2Proof
end

section
/-! Writes to the register file (42_regfile.md R124; 20_memory.md R46) and what a Responder does with the frames for
UNIT (44_responder.md R166 to R171), by the instruction. -/

namespace Sys2Proof.Machine

/-! ### Registers of a valid range -/

section
variable {c : Config} {m : Memory} {start : Nat}

/-- In a seeded register file every address of a valid range has a word (R12, R22). -/
theorem isSome_read_of_validRange {count i : Nat} (hr : c.role = .responder) (hseed : seededBy c m = true)
    (hv : validRange c start count = true) (hi : i < count) : (m.read (start + i)).isSome = true := by
  obtain ⟨-, hmapped⟩ := (validRange_iff _ _ _).mp hv
  rw [seeded_isSome hr hseed, hmapped i hi]

/-- R124: after a valid write register `start + i` holds value `i`. -/
theorem read_writeMany_of_validRange {vs : List Word} (hr : c.role = .responder) (hseed : seededBy c m = true)
    (hv : validRange c start vs.length = true) (i : Nat) (hi : i < vs.length) :
    (m.writeMany start vs).read (start + i) = some vs[i] :=
  Memory.read_writeMany_inside vs m start i hi (isSome_read_of_validRange hr hseed hv hi)

/-- R12, R22: a write creates no register and deletes none. -/
theorem seededBy_writeMany (vs : List Word) : seededBy c (m.writeMany start vs) = seededBy c m :=
  seededBy_congr (Memory.writeMany_addresses vs m start)

theorem length_le_of_validRange {count : Nat} (hv : validRange c start count = true) : count ≤ 125 :=
  ((validRange_iff _ _ _).mp hv).1.2.1

/-- The range of one register is valid when the register is mapped (R121). -/
theorem validRange_one (c : Config) (a : Word) : validRange c a.toNat 1 = mapped c a.toNat := by
  have ha := a.isLt
  rw [Bool.eq_iff_iff, validRange_iff]
  constructor
  · rintro ⟨-, hmapped⟩
    exact hmapped 0 one_pos
  · intro hmapped
    refine ⟨by omega, fun i hi => ?_⟩
    rwa [Nat.lt_one_iff.mp hi]

end

/-! ### RS.WRITE (R124) -/

section
variable {s : State} {start : Word} {values : List Word}

theorem exec_rsWrite_of_validRange (hr : s.cfg.role = .responder)
    (hv : validRange s.cfg start.toNat values.length = true) :
    exec (.rsWrite start values) s = .next { s with
      hr := s.hr.writeMany start.toNat values, outputs := s.outputs ++ [.result (.ok .done)] } := by
  rw [exec, execRsWrite, State.inRole_own hr, State.writeRegs, if_pos hv]
  rfl

theorem exec_rsWrite_of_not_validRange (hr : s.cfg.role = .responder)
    (hv : validRange s.cfg start.toNat values.length = false) :
    exec (.rsWrite start values) s =
      .next { s with outputs := s.outputs ++ [.result (.error .illegalDataAddress)] } := by
  rw [exec, execRsWrite, State.inRole_own hr, State.writeRegs, if_neg (Bool.eq_false_iff.mp hv)]
  rfl

end

/-- Settles O24: the two answers of RS.WRITE are those of the validation, and a valid write reads back. -/
theorem rsWriteResult : Obligations.RsWriteResult := by
  unfold Obligations.RsWriteResult
  refine ⟨fun start values s hinv hr hv => ?_, fun start values s => exec_rsWrite_of_not_validRange, fun _ _ => rfl⟩
  exact ⟨_, read_writeMany_of_validRange hr hinv.seeded hv, Memory.read_writeMany_outside values s.hr start.toNat,
    exec_rsWrite_of_validRange hr hv⟩

/-- Settles O25: the register file written is seeded, so the read returns a word for each address, the one written. -/
theorem writeThenReadReturnsTheValues : Obligations.WriteThenReadReturnsTheValues := by
  unfold Obligations.WriteThenReadReturnsTheValues
  intro start values s hinv hr hv
  refine ⟨_, exec_rsWrite_of_validRange hr hv, ?_⟩
  have hcount : (BitVec.ofNat 16 values.length).toNat = values.length := by
    have := length_le_of_validRange hv
    exact Nat.mod_eq_of_lt (by omega)
  obtain ⟨ws, hread, hlen, hwords⟩ := State.readRegs_of_validRange
    (s := { s with hr := s.hr.writeMany start.toNat values, outputs := s.outputs ++ [.result (.ok .done)] })
    hr ((seededBy_writeMany values).trans hinv.seeded) hv
  have heq : ws = values := by
    refine List.ext_getElem hlen fun i hi hi' => ?_
    exact Option.some.inj ((hwords i hi).symm.trans (read_writeMany_of_validRange hr hinv.seeded hv i hi'))
  rw [exec_rsRead (by exact hr), hcount, hread, heq]
  rfl

/-! ### Requests to UNIT, by the instruction (R166 to R168) -/

section
variable {s : State}

/-- R166: RHR for UNIT with a valid range puts out the words of the range. -/
theorem exec_rhr_of_validRange {start count : Word} (hr : s.cfg.role = .responder) (hseed : seededBy s.cfg s.hr = true)
    (hv : validRange s.cfg start.toNat count.toNat = true) :
    ∃ ws : List Word, ws.length = count.toNat ∧ (∀ i (h : i < ws.length), s.hr.read (start.toNat + i) = some ws[i]) ∧
      exec (.rhr s.cfg.unit start count) s =
        .next (s.served (s.hr, some (s.cfg.unit, fnRead, readResponsePayload ws))) := by
  obtain ⟨ws, hread, hlen, hwords⟩ := State.readRegs_of_validRange hr hseed hv
  refine ⟨ws, hlen, hwords, ?_⟩
  have hwhole := (State.readRegs_seeded hr hseed start.toNat count.toNat).symm.trans hread
  rw [if_pos hv] at hwhole
  rw [exec, execRhr, hr, State.serve_own_serveRead hr hseed, if_pos hv, Except.ok.inj hwhole]

theorem exec_rhr_of_not_validRange {start count : Word} (hr : s.cfg.role = .responder)
    (hseed : seededBy s.cfg s.hr = true) (hv : validRange s.cfg start.toNat count.toNat = false) :
    exec (.rhr s.cfg.unit start count) s = .next (s.served (s.hr, some (s.cfg.unit, fnRead ||| 0x80, [0x02]))) := by
  rw [exec, execRhr, hr, State.serve_own_serveRead hr hseed, if_neg (Bool.eq_false_iff.mp hv)]

/-- R167, R62: WSR for UNIT, and the same bytes under the name WSR.R, write the register if it is mapped. -/
theorem exec_wsr_own {addr value : Word} {i : Instr} (hr : s.cfg.role = .responder)
    (hi : i = .wsr s.cfg.unit addr value ∨ i = .wsrR s.cfg.unit addr value) :
    exec i s = .next (s.served (if mapped s.cfg addr.toNat then
      (s.hr.writeMany addr.toNat [value], some (s.cfg.unit, fnWriteSingle, twoWords addr value))
      else (s.hr, some (s.cfg.unit, fnWriteSingle ||| 0x80, [0x02])))) := by
  have hserve := State.serve_own_serveWrite (s := s) (start := addr) (fn := fnWriteSingle) (vs := [value])
    (response := twoWords addr value) (by simp [maxPayload])
  rw [List.length_singleton, validRange_one] at hserve
  rcases hi with rfl | rfl
  · rw [exec, execWsr, hr, hserve]
  · rw [exec, execWsrR, hr, hserve]

/-- R168: WMR for UNIT writes a valid range. -/
theorem exec_wmr_own (hr : s.cfg.role = .responder) (start : Word) (values : List Word) :
    exec (.wmr s.cfg.unit start values) s = .next (s.served (if validRange s.cfg start.toNat values.length then
      (s.hr.writeMany start.toNat values,
        some (s.cfg.unit, fnWriteMultiple, twoWords start (BitVec.ofNat 16 values.length)))
      else (s.hr, some (s.cfg.unit, fnWriteMultiple ||| 0x80, [0x02])))) := by
  rw [exec, execWmr, hr, State.serve_own_serveWrite (by simp [maxPayload])]

end

/-- Settles O31: the range read of a served RHR has the two answers of the validation. -/
theorem rhrAnswersWithTheRegisters : Obligations.RhrAnswersWithTheRegisters := by
  unfold Obligations.RhrAnswersWithTheRegisters
  refine fun start count s hinv hr => ⟨fun hv => ?_, fun hv => exec_rhr_of_not_validRange hr hinv.seeded hv⟩
  obtain ⟨ws, hlen, hwords, hexec⟩ := exec_rhr_of_validRange hr hinv.seeded hv
  refine ⟨ws, hlen, hwords, ?_⟩
  rw [hexec, readResponsePayload, wordBytes_eq_flatMap, hlen]
  rfl

/-- Settles O32: a served write of one value, whose range is valid when the address is mapped. -/
theorem wsrWritesOneRegister : Obligations.WsrWritesOneRegister := by
  unfold Obligations.WsrWritesOneRegister
  refine fun addr value s hinv hr => ⟨fun hm => ⟨s.hr.writeMany addr.toNat [value], ?_, fun a ha => ?_, fun i hi => ?_⟩,
    fun hm i hi => ?_⟩
  · have hv : validRange s.cfg addr.toNat [value].length = true := (validRange_one _ _).trans hm
    exact read_writeMany_of_validRange hr hinv.seeded hv 0 one_pos
  · exact Memory.read_writeMany_outside _ _ _ _ (by simp only [List.length_singleton]; omega)
  · rw [exec_wsr_own hr hi, if_pos hm]
    rfl
  · rw [exec_wsr_own hr hi, if_neg (Bool.eq_false_iff.mp hm)]
    rfl

/-- Settles O33: a served write of the values, and what their range reads as. -/
theorem wmrWritesTheRegisters : Obligations.WmrWritesTheRegisters := by
  unfold Obligations.WmrWritesTheRegisters
  refine fun start values s hinv hr _ => ⟨fun hv => ⟨_, read_writeMany_of_validRange hr hinv.seeded hv,
    Memory.read_writeMany_outside values s.hr start.toNat, ?_⟩, fun hv => ?_⟩
  · rw [exec_wmr_own hr, if_pos hv]
    rfl
  · rw [exec_wmr_own hr, if_neg (Bool.eq_false_iff.mp hv)]
    rfl

/-- Settles O35: a response to UNIT is a request of another format, and an exception frame is dropped. -/
theorem responseFramesAtAResponder : Obligations.ResponseFramesAtAResponder := by
  unfold Obligations.ResponseFramesAtAResponder
  refine fun s hr => ⟨fun words => ?_, fun start count => ?_, fun fn code => ?_⟩
  · rw [exec, execRhrR, hr, State.serve_own_respondException]
    rfl
  · rw [exec, execWmrR, hr, State.serve_own_respondException]
    rfl
  · rw [exec, execExc, hr, State.serve_own]

end Sys2Proof.Machine
end

section
/-! The invariant over steps (10_state.md): reset has it and every step keeps it (R6, R12, R14, R17, R22, R24); every
step takes its input (R217); a Responder is Idle after each Gap35 (R163); what a step stores (R22, R173). -/

namespace Sys2Proof.Machine

/-! ### States with the invariant -/

namespace State

/-- An engine at rest: Idle, with a clear receive path and nothing pending. -/
structure Resting (s : State) : Prop where
  rstate      : s.rstate = .idle
  qstate      : s.qstate = .idle
  rxlen       : s.rxlen = 0
  rxovf       : s.rxovf = false
  gaperr      : s.gaperr = false
  expired     : s.expired = false
  pendingMeas : s.pendingMeas = none

theorem Resting.inv {s : State} (h : s.Resting) (hl : s.cfg.legal = true) (hs : seededBy s.cfg s.hr = true) :
    s.Inv where
  legal := hl
  seeded := hs
  rx := ⟨by simp [h.rxlen], by simp [h.rxovf], by simp [h.gaperr]⟩
  responder _ := ⟨.inl ⟨h.rstate, h.rxlen⟩, h.qstate, h.expired, h.pendingMeas⟩
  requester _ := ⟨h.rstate, fun _ => ⟨h.rxlen, h.expired, h.pendingMeas⟩, by simp [h.qstate]⟩

theorem resting_resetWith (cfg : Config) (seed : Memory) (inputs : List Input) (outputs : List Output) :
    (resetWith cfg seed inputs outputs).Resting :=
  ⟨rfl, rfl, rfl, rfl, rfl, rfl, rfl⟩

section
variable {s t : State} (h : s.Inv)
include h

/-- The invariant says nothing of the environment's fields and of `crc_acc`, and of the registers which exist. -/
theorem Inv.with_env {m : Memory} (hm : seededBy s.cfg m = true) (inputs : List Input) (outputs : List Output)
    (crc : Word) : ({ s with hr := m, inputs := inputs, outputs := outputs, crcAcc := crc } : State).Inv where
  legal := h.legal
  seeded := hm
  rx := ⟨h.rx.length_le, h.rx.ovf_full, h.rx.gap_some⟩
  responder hr := ⟨(h.responder hr).rstate_ok, (h.responder hr).qstate_inert, (h.responder hr).no_expiry,
    (h.responder hr).no_pending⟩
  requester hr := ⟨(h.requester hr).rstate_inert, (h.requester hr).idle_clear, (h.requester hr).read_inflight⟩

theorem Inv.with_inputs (inputs : List Input) : ({ s with inputs := inputs } : State).Inv :=
  h.with_env h.seeded inputs s.outputs s.crcAcc

/-- A Responder that is Idle again with a clear receive path is at rest. -/
theorem Inv.resting_rxClear (hr : s.cfg.role = .responder) : ({ s.rxClear with rstate := .idle } : State).Resting :=
  ⟨rfl, (h.responder hr).qstate_inert, rfl, rfl, rfl, (h.responder hr).no_expiry, (h.responder hr).no_pending⟩

/-- A Requester that awaits a response keeps the invariant whatever becomes of its receive path and its timeout. -/
theorem Inv.of_awaiting (hr : s.cfg.role = .requester) (hq : s.qstate = .awaitingResponse) (hrx : t.RxInv)
    (hcfg : t.cfg = s.cfg) (hhr : t.hr = s.hr) (hrstate : t.rstate = s.rstate) (hqstate : t.qstate = s.qstate)
    (hinflight : t.inflight = s.inflight) (hmeas : t.pendingMeas = s.pendingMeas) : t.Inv where
  legal := hcfg ▸ h.legal
  seeded := by rw [hcfg, hhr]; exact h.seeded
  rx := hrx
  responder hr' := by simp [hcfg, hr] at hr'
  requester _ := by
    obtain ⟨hidle, -, hread⟩ := h.requester hr
    exact ⟨hrstate.trans hidle, by simp [hqstate, hq], by rw [hqstate, hinflight, hmeas]; exact hread⟩

theorem Inv.rxClear_of_awaiting (hr : s.cfg.role = .requester) (hq : s.qstate = .awaitingResponse) : s.rxClear.Inv :=
  h.of_awaiting hr hq (rxClear_rxInv s) rfl rfl rfl rfl rfl rfl

/-- The end of an exchange leaves the engine at rest (R186). -/
theorem Inv.complete (hr : s.cfg.role = .requester) (r : Except CoreError (List Word)) : (s.complete r).Inv := by
  have hrest : (s.complete r).Resting := ⟨(h.requester hr).rstate_inert, rfl, rfl, rfl, rfl, rfl, rfl⟩
  exact hrest.inv h.legal h.seeded

end

/-- After a byte the window is not empty: it is stored, or the window was full or broken by a gap. -/
theorem RxInv.rxlen_rxPush_pos {s : State} (h : s.RxInv) (b : Byte) : 0 < (s.rxPush b).rxlen := by
  rcases rxPush_cases b s with ⟨hg, e⟩ | ⟨-, hfull, e⟩ | ⟨-, -, e⟩ <;> rw [e]
  · exact h.gap_some hg
  · exact Nat.lt_of_lt_of_le (by decide) hfull
  · exact Nat.succ_pos _

/-- Where nothing listens, at a Requester in Idle, receive events change nothing (R188). -/
theorem listening_or_idle (s : State) :
    (s.cfg.role = .responder ∨ s.qstate = .awaitingResponse) ∨ (s.cfg.role = .requester ∧ s.qstate = .idle) := by
  cases s.cfg.role <;> cases s.qstate <;> simp

section
variable {s : State}

theorem onRxByte_of_idle (hr : s.cfg.role = .requester) (hq : s.qstate = .idle) (b : Byte) : s.onRxByte b = s := by
  simp [onRxByte, hr, hq]

theorem onGap15_of_idle (hr : s.cfg.role = .requester) (hq : s.qstate = .idle) : s.onGap15 = s := by
  simp [onGap15, hr, hq]

theorem Inv.onRxByte (h : s.Inv) (b : Byte) : (s.onRxByte b).Inv := by
  rcases s.listening_or_idle with hlisten | ⟨hr, hq⟩
  · rw [onRxByte_of_listening hlisten]
    have hrx : ({ s with rstate := s.rstateOnByte } : State).RxInv := ⟨h.rx.length_le, h.rx.ovf_full, h.rx.gap_some⟩
    cases hr : s.cfg.role with
    | responder =>
      obtain ⟨hstate, hq, he, hp⟩ := h.responder hr
      have hreceiving : s.rstateOnByte = .frameReceiving := by
        rcases hstate with ⟨hi, -⟩ | ⟨hf, -⟩ <;> simp [rstateOnByte, *]
      exact {
        legal := by simpa using h.legal
        seeded := by simpa using h.seeded
        rx := rxPush_rxInv hrx b
        responder := fun _ => ⟨.inr ⟨by simpa using hreceiving, hrx.rxlen_rxPush_pos b⟩, by simpa using hq,
          by simpa using he, by simpa using hp⟩
        requester := fun hr' => by simp [hr] at hr' }
    | requester =>
      have hq : s.qstate = .awaitingResponse := by simpa [hr] using hlisten
      have hstate : s.rstateOnByte = s.rstate := by simp [rstateOnByte, hr]
      exact h.of_awaiting hr hq (rxPush_rxInv hrx b) (by simp) (by simp) (by simp [hstate]) (by simp) (by simp)
        (by simp)
  · rwa [onRxByte_of_idle hr hq]

theorem Inv.onGap15 (h : s.Inv) : s.onGap15.Inv := by
  rcases s.listening_or_idle with hlisten | ⟨hr, hq⟩
  · rw [onGap15_of_listening hlisten]
    cases hr : s.cfg.role with
    | responder =>
      obtain ⟨hstate, hq, he, hp⟩ := h.responder hr
      exact {
        legal := by simpa using h.legal
        seeded := by simpa using h.seeded
        rx := rxGap15_rxInv h.rx
        responder := fun _ => ⟨by simpa using hstate, by simpa using hq, by simpa using he, by simpa using hp⟩
        requester := fun hr' => by simp [hr] at hr' }
    | requester =>
      have hq : s.qstate = .awaitingResponse := by simpa [hr] using hlisten
      exact h.of_awaiting hr hq (rxGap15_rxInv h.rx) (by simp) (by simp) (by simp) (by simp) (by simp) (by simp)
  · rwa [onGap15_of_idle hr hq]

theorem Inv.onTimeout (h : s.Inv) (hr : s.cfg.role = .requester) : s.onTimeout.Inv := by
  rcases onTimeout_cases s with ⟨-, e⟩ | ⟨-, -, e⟩ | ⟨hq, -, e⟩ <;> rw [e]
  · exact h
  · exact h.complete hr _
  · exact h.of_awaiting hr hq ⟨h.rx.length_le, h.rx.ovf_full, h.rx.gap_some⟩ rfl rfl rfl rfl rfl rfl

theorem Inv.discardWindow (h : s.Inv) (hr : s.cfg.role = .requester) : s.discardWindow.Inv := by
  rcases discardWindow_cases s with ⟨-, e⟩ | ⟨-, e⟩ <;> rw [e]
  · exact h
  · exact h.complete hr _

theorem Inv.settle (h : s.Inv) (hr : s.cfg.role = .requester) (c : Option (Except CoreError (List Word))) :
    (s.settle c).Inv := by
  rcases settle_cases c s with e | ⟨-, r, e⟩ <;> rw [e]
  · exact h
  · exact h.complete hr r

end

end State

/-! ### The effect of an instruction that has answered -/

section
variable {i : Instr} {s t : State} (h : exec i s = .next t)
include h

theorem commandEffect_of_exec (hi : frameUnit i = none) : CommandEffect s t := by
  obtain ⟨t', h', heffect⟩ := exec_command i s hi
  cases h.symm.trans h'
  exact heffect

theorem frameEffect_of_exec (hr : s.cfg.role = .responder) (hi : frameUnit i ≠ none) : FrameEffect s t := by
  obtain ⟨t', h', heffect⟩ := exec_frame_responder i s hr hi
  cases h.symm.trans h'
  exact heffect

theorem eq_settle_of_exec (hr : s.cfg.role = .requester) (hi : frameUnit i ≠ none) : ∃ c, t = s.settle c := by
  obtain ⟨c, h'⟩ := exec_frame_requester i s hr hi
  cases h.symm.trans h'
  exact ⟨c, rfl⟩

/-- Everything an instruction can do: a host command's effect, or a frame's by the role. -/
theorem exec_effect :
    (frameUnit i = none ∧ CommandEffect s t) ∨
    (frameUnit i ≠ none ∧ s.cfg.role = .responder ∧ FrameEffect s t) ∨
    (frameUnit i ≠ none ∧ s.cfg.role = .requester ∧ ∃ c, t = s.settle c) := by
  by_cases hi : frameUnit i = none
  · exact .inl ⟨hi, commandEffect_of_exec h hi⟩
  · cases hr : s.cfg.role with
    | responder => exact .inr (.inl ⟨hi, rfl, frameEffect_of_exec h hr hi⟩)
    | requester => exact .inr (.inr ⟨hi, rfl, eq_settle_of_exec h hr hi⟩)

end

/-- A request that decodes is a wire frame, and so is a response. -/
theorem frameUnit_ne_none_of_decodeRequest {f : Frame} {i : Instr} (h : decodeRequest f = .ok i) :
    frameUnit i ≠ none := by
  simp [decodeRequest_frameUnit h]

theorem frameUnit_ne_none_of_decodeResponse {f : Frame} {i : Instr} (h : decodeResponse f = .ok i) :
    frameUnit i ≠ none := by
  simp [decodeResponse_frameUnit h]

/-! ### What instructions leave of the invariant -/

/-- A Responder that has served a frame is Idle, its receive path as it was. -/
theorem FrameEffect.resting {s t : State} (h : FrameEffect s t)
    (hs : ({ s with rstate := .idle } : State).Resting) : t.Resting := by
  cases h <;> exact ⟨rfl, hs.qstate, hs.rxlen, hs.rxovf, hs.gaperr, hs.expired, hs.pendingMeas⟩

theorem CommandEffect.inv {s t : State} (h : CommandEffect s t) (hinv : s.Inv) : t.Inv := by
  cases h with
  | answer r => exact hinv.with_env hinv.seeded _ _ _
  | crc x => exact hinv.with_env hinv.seeded _ _ x
  | write start vs hv hr => exact hinv.with_env ((seededBy_writeMany vs).trans hinv.seeded) _ _ _
  | send unit start count timeout meas hr hq hu hm hc =>
    exact {
      legal := hinv.legal
      seeded := hinv.seeded
      rx := ⟨by simp, by simp, by simp⟩
      responder := fun hr' => by cases hr.symm.trans hr'
      requester := fun _ => ⟨(hinv.requester hr).rstate_inert, by simp, fun _ => ⟨rfl, hu, fun d hd => by
        subst hd
        exact ⟨by simpa using hm, hc d rfl⟩⟩⟩ }
  | cancel hr hq =>
    have hend := hinv.complete hr (.error .cancelled)
    exact hend.with_env hend.seeded _ _ _

/-! ### What every instruction leaves as it is -/

/-- What every instruction leaves as it is: the configuration, the bytes of the receive buffer, the inputs, and the
outputs put out before. -/
structure ExecKeeps (s t : State) : Prop where
  cfg     : t.cfg = s.cfg
  rxbuf   : t.rxbuf = s.rxbuf
  inputs  : t.inputs = s.inputs
  outputs : ∃ os, t.outputs = s.outputs ++ os

theorem FrameEffect.keeps {s t : State} (h : FrameEffect s t) : ExecKeeps s t := by
  cases h with
  | silent => exact ⟨rfl, rfl, rfl, [], (List.append_nil _).symm⟩
  | answer | write => exact ⟨rfl, rfl, rfl, _, rfl⟩

theorem State.complete_keeps (s : State) (r : Except CoreError (List Word)) : ExecKeeps s (s.complete r) :=
  ⟨rfl, rfl, rfl, _, complete_outputs r s⟩

theorem State.settle_keeps (s : State) (c : Option (Except CoreError (List Word))) : ExecKeeps s (s.settle c) := by
  rcases settle_cases c s with e | ⟨-, r, e⟩ <;> rw [e]
  · exact ⟨rfl, rfl, rfl, [], (List.append_nil _).symm⟩
  · exact s.complete_keeps r

theorem CommandEffect.keeps {s t : State} (h : CommandEffect s t) : ExecKeeps s t := by
  cases h with
  | answer | crc | write | send => exact ⟨rfl, rfl, rfl, _, rfl⟩
  | cancel => exact ⟨rfl, rfl, rfl, _, by rw [State.deliver_outputs, State.complete_outputs, List.append_assoc]⟩

theorem exec_keeps {i : Instr} {s t : State} (h : exec i s = .next t) : ExecKeeps s t := by
  rcases exec_effect h with ⟨-, heffect⟩ | ⟨-, -, heffect⟩ | ⟨-, -, c, rfl⟩
  · exact heffect.keeps
  · exact heffect.keeps
  · exact s.settle_keeps c

/-! ### What an instruction stores (R124, R167, R168) -/

/-- `t` has the registers of `s` after the store of `i` to a valid range. -/
def StoresTo (i : Instr) (s t : State) : Prop :=
  ∃ (start : Nat) (vs : List Word), storeRange i = some (start, vs.length) ∧
    validRange s.cfg start vs.length = true ∧ t.hr = s.hr.writeMany start vs

namespace State

@[simp] theorem respondException_hr (unit fn code : Byte) (s : State) : (s.respondException unit fn code).hr = s.hr :=
  emitFrame_hr _ _ _ _

@[simp] theorem serveRead_hr (start count : Word) (s : State) : (s.serveRead start count).hr = s.hr := by
  rcases serveRead_cases start count s with ⟨ws, -, -, -, e⟩ | ⟨-, e⟩ <;> rw [e, put_hr]

@[simp] theorem startRead_hr (unit : Byte) (start count : Word) (timeout : BitVec 32) (meas : Option Descriptor)
    (s : State) : (s.startRead unit start count timeout meas).hr = s.hr := by
  rcases startRead_cases unit start count timeout meas s with ⟨-, e⟩ | ⟨-, -, e⟩ | ⟨-, -, -, e⟩ <;> rw [e] <;> rfl

theorem serve_hr {action : State → State} (ha : ∀ t, (action t).hr = t.hr) (unit : Byte) (s : State) :
    (s.serve unit action).hr = s.hr := by
  rcases serve_cases unit action s with ⟨-, e⟩ | ⟨-, e⟩ <;> rw [e]
  exact ha _

theorem inRole_hr {k : State → State} (hk : ∀ t, (k t).hr = t.hr) (role : Role) (s : State) :
    (s.inRole role k).hr = s.hr := by
  unfold inRole
  split
  · exact hk s
  · rfl

end State

/-- A write over the wire stores only for its own unit and to a valid range. -/
theorem serve_serveWrite_hr_cases {i : Instr} {s : State} {unit fn : Byte} {start : Word} {vs : List Word}
    {response : List Byte} (hi : frameUnit i = some unit) (hrange : storeRange i = some (start.toNat, vs.length))
    (hlen : response.length ≤ maxPayload) :
    (s.serve unit (State.serveWrite fn start vs response)).hr = s.hr ∨
    ((∀ u, frameUnit i = some u → u = s.cfg.unit) ∧
      StoresTo i s (s.serve unit (State.serveWrite fn start vs response))) := by
  by_cases hu : unit = s.cfg.unit
  · subst hu
    rw [State.serve_own_serveWrite hlen]
    split
    · exact .inr ⟨fun u hi' => Option.some.inj (hi'.symm.trans hi), _, vs, hrange, ‹_›, rfl⟩
    · exact .inl rfl
  · rw [State.serve_other s hu]
    exact .inl rfl

/-- Every instruction leaves the register file as it is or, at a Responder, stores to its valid range; a frame only to
the registers of its own unit. -/
theorem exec_hr_cases {i : Instr} {s t : State} (h : exec i s = .next t) :
    t.hr = s.hr ∨
    (s.cfg.role = .responder ∧ (∀ u, frameUnit i = some u → u = s.cfg.unit) ∧ StoresTo i s t) := by
  cases hr : s.cfg.role with
  | requester =>
    refine .inl ?_
    rcases exec_effect h with ⟨-, heffect⟩ | ⟨-, hr', -⟩ | ⟨-, -, c, rfl⟩
    · cases heffect with
      | write start vs hv hr' => cases hr.symm.trans hr'
      | answer | crc | send | cancel => rfl
    · cases hr.symm.trans hr'
    · exact State.settle_hr c s
  | responder =>
    cases i
    case wsr | wsrR | wmr =>
      simp only [exec, execWsr, execWsrR, execWmr, hr] at h
      injection h with h
      subst h
      exact (serve_serveWrite_hr_cases rfl rfl (by simp [maxPayload])).imp_right (⟨rfl, ·⟩)
    case rsWrite start values =>
      cases hv : validRange s.cfg start.toNat values.length with
      | true =>
        cases (exec_rsWrite_of_validRange hr hv).symm.trans h
        exact .inr ⟨rfl, by simp [frameUnit], _, _, rfl, hv, rfl⟩
      | false =>
        cases (exec_rsWrite_of_not_validRange hr hv).symm.trans h
        exact .inl rfl
    case rhr | rhrR | wmrR | exc =>
      simp only [exec, execRhr, execRhrR, execWmrR, execExc, hr] at h
      injection h with h
      subst h
      exact .inl (State.serve_hr (by simp) _ s)
    case rsRead | rqSendRead | rqReadMeas =>
      cases h
      exact .inl (State.inRole_hr (by simp) _ s)
    case rqCancel =>
      cases h
      exact .inl (State.inRole_hr (fun t => by split <;> simp) _ s)
    all_goals
      cases h
      exact .inl rfl

/-! ### What a step stores -/

section
variable {s t : State} {e : Input} {rest : List Input}

namespace State

@[simp] theorem onRxByte_cfg (b : Byte) (s : State) : (s.onRxByte b).cfg = s.cfg := by
  rcases s.listening_or_idle with hlisten | ⟨hr, hq⟩
  · simp [onRxByte_of_listening hlisten]
  · rw [onRxByte_of_idle hr hq]

@[simp] theorem onRxByte_hr (b : Byte) (s : State) : (s.onRxByte b).hr = s.hr := by
  rcases s.listening_or_idle with hlisten | ⟨hr, hq⟩
  · simp [onRxByte_of_listening hlisten]
  · rw [onRxByte_of_idle hr hq]

@[simp] theorem onGap15_cfg (s : State) : s.onGap15.cfg = s.cfg := by
  rcases s.listening_or_idle with hlisten | ⟨hr, hq⟩
  · simp [onGap15_of_listening hlisten]
  · rw [onGap15_of_idle hr hq]

@[simp] theorem onGap15_hr (s : State) : s.onGap15.hr = s.hr := by
  rcases s.listening_or_idle with hlisten | ⟨hr, hq⟩
  · simp [onGap15_of_listening hlisten]
  · rw [onGap15_of_idle hr hq]

@[simp] theorem onTimeout_cfg (s : State) : s.onTimeout.cfg = s.cfg := by
  rcases onTimeout_cases s with ⟨-, e⟩ | ⟨-, -, e⟩ | ⟨-, -, e⟩ <;> simp [e]

@[simp] theorem onTimeout_hr (s : State) : s.onTimeout.hr = s.hr := by
  rcases onTimeout_cases s with ⟨-, e⟩ | ⟨-, -, e⟩ | ⟨-, -, e⟩ <;> simp [e]

@[simp] theorem rejectRequest_hr (e : DecodeError) (s : State) : (s.rejectRequest e).hr = s.hr := by
  rcases rejectRequest_cases e s with ⟨_, _, _, e', -⟩ | ⟨_, e'⟩ | e' | e' <;> rw [e']
  · exact serve_hr (by simp) _ s
  · exact serve_hr (by simp) _ s

end State

/-- The window of a validated frame decodes to the instruction the step runs (R62). -/
theorem decode_window {role : Role} {f : Frame} {i : Instr} (ho : s.rxOutcome = .frame f)
    (hd : decodeFrame role f = .ok i) : decode role (.frame s.window) = .ok i := by
  rw [decode, State.rxOutcome_frame ho]
  exact hd

/-- R22: no step but a reset changes the configuration. -/
theorem StepEffect.cfg_eq (h : StepEffect s { s with inputs := rest } e t) (he : isReset e = false) :
    t.cfg = s.cfg := by
  cases h with
  | rxByte | gap15 | timeout | discarded => simp
  | timeoutIgnored | reserved | noWindow | dropped | idleGap | emptyGap => rfl
  | command p i t hd hexec => exact (exec_keeps hexec).cfg
  | request _ f i t ho hd hexec => exact (exec_keeps hexec).cfg
  | response _ _ f i t ho hd hexec => exact (exec_keeps hexec).cfg
  | badRequest _ f x ho hd => exact (rejectRequest_effect _ hd).keeps.cfg
  | reset => cases he

/-- R173: what makes a step store is a host RS.WRITE, or a validated frame for UNIT. -/
def StoreCause (s : State) (e : Input) (i : Instr) : Prop :=
  (∃ (p : HostPort) (st : Word) (vs : List Word), e = .command p ∧ decodeCommand p = .ok i ∧ i = .rsWrite st vs) ∨
  (e = .gap35 ∧ frameUnit i = some s.cfg.unit ∧ decode .responder (.frame s.window) = .ok i)

/-- The host command that stores is RS.WRITE. -/
theorem eq_rsWrite_of_storeRange {i : Instr} {r : Nat × Nat} (hi : frameUnit i = none) (h : storeRange i = some r) :
    ∃ st vs, i = .rsWrite st vs := by
  cases i <;> simp [frameUnit, storeRange] at hi h ⊢

/-- R173: no step but a reset changes the register file other than by a store, of an instruction that has a cause. -/
theorem StepEffect.hr_cases (h : StepEffect s { s with inputs := rest } e t) (he : isReset e = false) :
    t.hr = s.hr ∨ (s.cfg.role = .responder ∧ ∃ i, StoresTo i s t ∧ StoreCause s e i) := by
  cases h with
  | rxByte | gap15 | timeout | discarded => exact .inl (by simp)
  | timeoutIgnored | reserved | noWindow | dropped | idleGap | emptyGap => exact .inl rfl
  | command p i t hd hexec =>
    refine (exec_hr_cases hexec).imp_right fun ⟨hr, _, hstore⟩ => ⟨hr, i, hstore, .inl ?_⟩
    obtain ⟨start, vs, hrange, -⟩ := hstore
    obtain ⟨hframe, -⟩ := decodeCommand_opsel hd
    obtain ⟨st, vs', hi⟩ := eq_rsWrite_of_storeRange hframe hrange
    exact ⟨p, st, vs', rfl, hd, hi⟩
  | request hr f i t ho hd hexec =>
    refine (exec_hr_cases hexec).imp_right fun ⟨_, hu, hstore⟩ => ⟨hr, i, hstore, .inr ⟨rfl, ?_, ?_⟩⟩
    · have hunit := decodeRequest_frameUnit hd
      rw [hunit, hu f.unit hunit]
      rfl
    · exact decode_window (role := .responder) ho hd
  | response hr _ f i t ho hd hexec =>
    refine .inl ((exec_hr_cases hexec).resolve_right ?_)
    rintro ⟨hr', -⟩
    cases hr.symm.trans hr'
  | badRequest _ f x ho hd => exact .inl (State.rejectRequest_hr x _)
  | reset => cases he

/-- R12, R22: no step but a reset creates or deletes a register. -/
theorem StepEffect.addresses_eq (h : StepEffect s { s with inputs := rest } e t) (he : isReset e = false) :
    t.hr.map Prod.fst = s.hr.map Prod.fst := by
  rcases h.hr_cases he with hhr | ⟨-, i, ⟨start, vs, -, -, hhr⟩, -⟩ <;> rw [hhr]
  exact Memory.writeMany_addresses vs s.hr start

end

/-! ### What a step leaves of the invariant -/

section
variable {s t : State} {e : Input} {rest : List Input}

/-- R163: the Gap35 of a Responder leaves it at rest. -/
theorem StepEffect.resting_of_gap35 (h : StepEffect s { s with inputs := rest } .gap35 t) (hinv : s.Inv)
    (hr : s.cfg.role = .responder) : t.Resting := by
  have hrest := (hinv.with_inputs rest).resting_rxClear hr
  cases h with
  | noWindow _ h0 =>
    obtain ⟨hstate, hq, he, hp⟩ := hinv.responder hr
    exact ⟨(hstate.resolve_right (by omega)).1, hq, rfl, rfl, rfl, he, hp⟩
  | dropped => exact hrest
  | request _ f i _ _ hd hexec =>
    exact (frameEffect_of_exec hexec hr (frameUnit_ne_none_of_decodeRequest hd)).resting hrest
  | badRequest _ f x _ hd => exact (rejectRequest_effect _ hd).resting hrest
  | idleGap hr' | emptyGap hr' | discarded hr' | response hr' => cases hr.symm.trans hr'

theorem StepEffect.inv (h : StepEffect s { s with inputs := rest } e t) (hinv : s.Inv) : t.Inv := by
  have hu := hinv.with_inputs rest
  have hcfg := h.cfg_eq
  have hseeded (he : isReset e = false) : seededBy t.cfg t.hr = true := by
    rw [hcfg he, seededBy_congr (h.addresses_eq he), hinv.seeded]
  have hserved (he : e = .gap35) (hr : s.cfg.role = .responder) : t.Inv := by
    subst he
    exact (h.resting_of_gap35 hinv hr).inv (hcfg rfl ▸ hinv.legal) (hseeded rfl)
  cases h with
  | rxByte b => exact hu.onRxByte b
  | gap15 => exact hu.onGap15
  | timeoutIgnored => exact hu
  | timeout hr => exact hu.onTimeout hr
  | reserved => exact hu.with_env hu.seeded _ _ _
  | command p i t hd hexec =>
    obtain ⟨hframe, -⟩ := decodeCommand_opsel hd
    exact (commandEffect_of_exec hexec hframe).inv hu
  | reset cfg seed hl hs => exact (State.resting_resetWith _ _ _ _).inv hl hs
  | noWindow hr | dropped hr | request hr | badRequest hr => exact hserved rfl hr
  | idleGap => exact hu
  | emptyGap hr hq => exact hu.rxClear_of_awaiting hr hq
  | discarded hr hq => exact (hu.rxClear_of_awaiting hr hq).discardWindow hr
  | response hr hq f i t ho hd hexec =>
    obtain ⟨c, rfl⟩ := eq_settle_of_exec hexec hr (frameUnit_ne_none_of_decodeResponse hd)
    exact (hu.rxClear_of_awaiting hr hq).settle hr c

end

/-- Settles O18: by what the step did, a Responder being at rest after every Gap35 and a Requester after every end of an
exchange. -/
theorem everyStepKeepsTheInvariant : Obligations.EveryStepKeepsTheInvariant := by
  unfold Obligations.EveryStepKeepsTheInvariant
  intro s t hinv h
  rcases step_effect h with ⟨-, rfl⟩ | ⟨e, rest, -, heffect⟩
  · exact hinv
  · exact heffect.inv hinv

/-- The reset state has the registers 0..255, and just these are mapped (log 3). -/
theorem addresses_reset : State.reset.hr.map Prod.fst = List.range 256 := by
  change ((List.range 256).map fun a => (a, (0 : Word))).map Prod.fst = _
  rw [List.map_map]
  exact List.map_id _

theorem seededBy_reset : seededBy Config.atReset State.reset.hr = true := by
  have hmapped (a : Nat) : a ∈ List.range 256 ↔ mapped Config.atReset a = true := by
    simp [mapped, Config.atReset]
    omega
  have hrole : Config.atReset.role = .responder := rfl
  simp only [seededBy, hrole, Bool.and_eq_true, List.all_eq_true, Memory.read_isSome, addresses_reset]
  refine ⟨⟨State.reset_hr_wf, fun cell hcell => ?_⟩, fun a ha => ?_⟩
  · rw [← hmapped, ← addresses_reset]
    exact List.mem_map_of_mem hcell
  · rw [List.range_eq_range']
    exact ha

/-- Settles O19: an engine after reset is at rest, and the reset state is one with legal straps and their registers. -/
theorem resetMeetsTheInvariant : Obligations.ResetMeetsTheInvariant := by
  unfold Obligations.ResetMeetsTheInvariant
  have hreset (cfg : Config) (seed : Memory) (inputs : List Input) (outputs : List Output) (hl : cfg.legal = true)
      (hs : seededBy cfg seed = true) : (State.resetWith cfg seed inputs outputs).Inv :=
    (State.resting_resetWith cfg seed inputs outputs).inv hl hs
  exact ⟨hreset _ _ _ _ (by decide) seededBy_reset, hreset⟩

/-- Settles O37: the step answers, and the state it leaves is at rest. -/
theorem responderIsIdleAfterGap35 : Obligations.ResponderIsIdleAfterGap35 := by
  unfold Obligations.ResponderIsIdleAfterGap35
  intro s rest hinv hr hin
  obtain ⟨t, h, -⟩ := step_next_inputs hin rfl
  rcases step_effect h with ⟨hnil, -⟩ | ⟨e, rest', hin', heffect⟩
  · cases hin.symm.trans hnil
  · obtain ⟨rfl, rfl⟩ := List.cons.inj (hin.symm.trans hin')
    obtain ⟨hrstate, -, hlen, hovf, hgap, -, -⟩ := heffect.resting_of_gap35 hinv hr
    exact ⟨t, h, hrstate, hlen, hovf, hgap⟩

/-! ### Every input is taken (R217) -/

/-- U3, R17: a reset with an illegal configuration or seed is refused by name. -/
theorem step_illegal_reset {s : State} {cfg : Config} {seed : Memory} {rest : List Input}
    (hin : s.inputs = .reset cfg seed :: rest) (hbad : (cfg.legal && seededBy cfg seed) = false) :
    step s = .refused .illegalConfiguration := by
  simp only [step, State.fetch, hin, State.accept, State.onReset, hbad]
  rfl

/-- Settles O17: a step takes any input but a reset, and a reset by whether it is legal. -/
theorem everyInputIsTaken : Obligations.EveryInputIsTaken := by
  unfold Obligations.EveryInputIsTaken
  refine ⟨fun i s => (exec_next_inputs i s).imp fun _ => And.left, fun s => ?_⟩
  cases hin : s.inputs with
  | nil => exact .inl ⟨s, by simp only [step, State.fetch, hin], by simp⟩
  | cons e rest =>
    have htaken {t : State} (h : step s = .next t) (ht : t.inputs = rest) :
        ∃ t, step s = .next t ∧ ∀ e' rest', e :: rest = e' :: rest' → t.inputs = rest' :=
      ⟨t, h, fun e' rest' heq => ht.trans (List.cons.inj heq).2⟩
    cases he : isReset e with
    | false =>
      obtain ⟨t, h, ht⟩ := step_next_inputs hin he
      exact .inl (htaken h ht)
    | true =>
      match e, he with
      | .reset cfg seed, _ =>
        cases hbad : cfg.legal && seededBy cfg seed with
        | false => exact .inr ⟨cfg, seed, rest, rfl, hbad, step_illegal_reset hin hbad⟩
        | true =>
          obtain ⟨hl, hs⟩ := Bool.and_eq_true_iff.mp hbad
          exact .inl (htaken (step_reset hin hl hs) rfl)

/-! ### Which registers exist, and which change (R22, R173) -/

/-- Settles O26: the configuration is kept, and a word is there for an address that is listed. -/
theorem mappedNeverChanges : Obligations.MappedNeverChanges := by
  unfold Obligations.MappedNeverChanges
  intro s t h hreset
  rcases step_effect h with ⟨-, rfl⟩ | ⟨e, rest, hin, heffect⟩
  · exact ⟨rfl, fun _ => rfl, fun _ => rfl⟩
  · have he := hreset e rest hin
    have hcfg := heffect.cfg_eq he
    refine ⟨hcfg, fun a => by rw [hcfg], fun a => ?_⟩
    rw [Bool.eq_iff_iff, Memory.read_isSome, Memory.read_isSome, heffect.addresses_eq he]

/-- Settles O27: a store reads back as before outside its range. -/
theorem registersChangeOnlyByWrites : Obligations.RegistersChangeOnlyByWrites := by
  unfold Obligations.RegistersChangeOnlyByWrites
  intro s t a h hne
  rcases step_effect h with ⟨-, rfl⟩ | ⟨e, rest, hin, heffect⟩
  · exact absurd rfl hne
  refine ⟨e, rest, hin, ?_⟩
  cases he : isReset e with
  | true => exact .inl rfl
  | false =>
    rcases heffect.hr_cases he with hhr | ⟨hr, i, ⟨start, vs, hrange, hv, hhr⟩, hcause⟩
    · exact absurd (by rw [hhr]) hne
    · have hinside : start ≤ a ∧ a < start + vs.length := by
        by_contra hout
        exact hne (by rw [hhr, Memory.read_writeMany_outside vs s.hr start a (by omega)])
      exact .inr ⟨hr, i, start, vs.length, hrange, hv, hinside.1, hinside.2, hcause⟩

end Sys2Proof.Machine
end

section
/-! Frames of the instructions (10_state.md): what each leaves unchanged besides the registers it stores to. -/

namespace Sys2Proof.Machine

/-- The fields of the requester's engine and of the receive path are as they were. -/
structure EngineKeeps (s t : State) : Prop where
  qstate      : t.qstate = s.qstate
  expired     : t.expired = s.expired
  inflight    : t.inflight = s.inflight
  pendingMeas : t.pendingMeas = s.pendingMeas
  rxlen       : t.rxlen = s.rxlen
  rxovf       : t.rxovf = s.rxovf
  gaperr      : t.gaperr = s.gaperr

theorem FrameEffect.engineKeeps {s t : State} (h : FrameEffect s t) : EngineKeeps s t := by
  cases h <;> exact ⟨rfl, rfl, rfl, rfl, rfl, rfl, rfl⟩

theorem CommandEffect.engineKeeps_of_responder {s t : State} (h : CommandEffect s t) (hr : s.cfg.role = .responder) :
    EngineKeeps s t := by
  cases h with
  | answer | crc | write => exact ⟨rfl, rfl, rfl, rfl, rfl, rfl, rfl⟩
  | send unit start count timeout meas hr' => cases hr.symm.trans hr'
  | cancel hr' => cases hr.symm.trans hr'

theorem CommandEffect.rstate_eq {s t : State} (h : CommandEffect s t) : t.rstate = s.rstate := by
  cases h <;> rfl

section
variable {i : Instr} {s t : State}

/-- R80, R81: the register file's commands are refused at a Requester. -/
theorem exec_rsRead_of_requester (hr : s.cfg.role = .requester) (start count : Word) :
    exec (.rsRead start count) s = .next (s.deliver (.error .refused)) :=
  congrArg _ (State.inRole_other (by simp [hr]) _)

theorem exec_rsWrite_of_requester (hr : s.cfg.role = .requester) (start : Word) (values : List Word) :
    exec (.rsWrite start values) s = .next (s.deliver (.error .refused)) :=
  congrArg _ (State.inRole_other (by simp [hr]) _)

/-- Only the three commands of the requester and, at a Requester, the wire frames reach the engine. -/
theorem exec_engineKeeps (h : exec i s = .next t)
    (hi : s.cfg.role = .responder ∨ (frameUnit i = none ∧ (∀ u a n x, i ≠ .rqSendRead u a n x) ∧
      (∀ u a d x, i ≠ .rqReadMeas u a d x) ∧ i ≠ .rqCancel)) : EngineKeeps s t := by
  cases hr : s.cfg.role with
  | responder =>
    rcases exec_effect h with ⟨-, heffect⟩ | ⟨-, -, heffect⟩ | ⟨-, hr', -⟩
    · exact heffect.engineKeeps_of_responder hr
    · exact heffect.engineKeeps
    · cases hr.symm.trans hr'
  | requester =>
    obtain ⟨hframe, hsend, hmeas, hcancel⟩ := hi.resolve_left (by simp [hr])
    cases i <;> simp only [frameUnit, reduceCtorEq] at hframe
    case rqSendRead u a n x => exact absurd rfl (hsend u a n x)
    case rqReadMeas u a d x => exact absurd rfl (hmeas u a d x)
    case rqCancel => exact absurd rfl hcancel
    case rsRead start count =>
      cases (exec_rsRead_of_requester hr start count).symm.trans h
      exact ⟨rfl, rfl, rfl, rfl, rfl, rfl, rfl⟩
    case rsWrite start values =>
      cases (exec_rsWrite_of_requester hr start values).symm.trans h
      exact ⟨rfl, rfl, rfl, rfl, rfl, rfl, rfl⟩
    all_goals
      cases h
      exact ⟨rfl, rfl, rfl, rfl, rfl, rfl, rfl⟩

theorem exec_rstate_of_command (h : exec i s = .next t) (hi : frameUnit i = none) : t.rstate = s.rstate := by
  rcases exec_effect h with ⟨-, heffect⟩ | ⟨hframe, -⟩ | ⟨hframe, -⟩
  · exact heffect.rstate_eq
  · exact absurd hi hframe
  · exact absurd hi hframe

theorem exec_rstate_of_requester (h : exec i s = .next t) (hr : s.cfg.role = .requester) : t.rstate = s.rstate := by
  rcases exec_effect h with ⟨-, heffect⟩ | ⟨-, hr', -⟩ | ⟨-, -, c, rfl⟩
  · exact heffect.rstate_eq
  · cases hr.symm.trans hr'
  · exact State.settle_rstate c s

theorem exec_hr_of_no_store (h : exec i s = .next t) (hi : storeRange i = none) : t.hr = s.hr := by
  refine (exec_hr_cases h).resolve_right ?_
  rintro ⟨-, -, start, vs, hrange, -⟩
  cases hi.symm.trans hrange

/-- A store leaves every register outside its range alone. -/
theorem exec_read_outside (h : exec i s = .next t) {start n a : Nat} (hi : storeRange i = some (start, n))
    (ha : a < start ∨ start + n ≤ a) : t.hr.read a = s.hr.read a := by
  rcases exec_hr_cases h with hhr | ⟨-, -, start', vs, hrange, -, hhr⟩ <;> rw [hhr]
  cases hi.symm.trans hrange
  exact Memory.read_writeMany_outside vs s.hr start a ha

theorem crcAfter_of_not_write (hupd : ∀ b, i ≠ .crcUpd b) (hinit : i ≠ .crcInit) (acc : Word) :
    crcAfter acc i = acc := by
  unfold crcAfter
  split
  · exact absurd rfl hinit
  · exact absurd rfl (hupd _)
  · rfl

end

/-- Settles O21: each group of fields by what an instruction can do to it. -/
theorem instructionFrames : Obligations.InstructionFrames := by
  unfold Obligations.InstructionFrames
  intro i s t h
  obtain ⟨hcfg, hbuf, hin, hout⟩ := exec_keeps h
  refine ⟨hcfg, hbuf, hin, exec_hr_of_no_store h, fun a start n => exec_read_outside h, fun hupd hinit => ?_,
    exec_rstate_of_command h, fun hr => ⟨exec_rstate_of_requester h hr, ?_⟩, fun hi => ?_, hout⟩
  · rw [crcAcc_of_exec h, crcAfter_of_not_write hupd hinit]
  · refine (exec_hr_cases h).resolve_right ?_
    rintro ⟨hr', -⟩
    cases hr.symm.trans hr'
  · obtain ⟨hq, he, hf, hp, hlen, hovf, hgap⟩ := exec_engineKeeps h hi
    exact ⟨hq, he, hf, hp, hlen, hovf, hgap⟩

end Sys2Proof.Machine
end

section
/-! The requester (45_requester.md): the read commands (R187, R195), the classification of a window (R189 to R191), the
timeout (R192) and the cancellation (R194). -/

namespace Sys2Proof.Machine

/-! ### The end of an exchange (R186) -/

namespace State

variable {s : State}

theorem complete_eq (r : Except CoreError (List Word)) (s : State) :
    s.complete r = { s with
      rxlen := 0, rxovf := false, gaperr := false, expired := false, pendingMeas := none, qstate := .idle,
      outputs := s.outputs ++ [.completion (s.pendingResult r), .disarmTimer] } := by
  simp [complete, put, rxClear]

theorem pendingResult_error (e : CoreError) (s : State) : s.pendingResult (.error e) = .error e := rfl

/-- RQ.SENDREAD's result is the words. -/
theorem pendingResult_words (h : s.pendingMeas = none) (ws : List Word) :
    s.pendingResult (.ok ws) = .ok (.words ws) := by
  simp only [pendingResult, h]

/-- RQ.READMEAS's result is DEC.MEAS of the words (R195). -/
theorem pendingResult_meas {d : Descriptor} (h : s.pendingMeas = some d) (ws : List Word) :
    s.pendingResult (.ok ws) = (decMeas s.cfg.acceptNonfinite ws d).map .float := by
  simp only [pendingResult, h]
  cases decMeas s.cfg.acceptNonfinite ws d <;> rfl

theorem settle_some (hq : s.qstate = .awaitingResponse) (r : Except CoreError (List Word)) :
    s.settle (some r) = s.complete r := by
  simp only [settle, hq]

theorem settle_none (hq : s.qstate = .awaitingResponse) : s.settle none = s.discardWindow := by
  simp only [settle, hq]

theorem discardWindow_of_running (h : s.expired = false) : s.discardWindow = s := by
  simp [discardWindow, h]

theorem discardWindow_of_expired (h : s.expired = true) :
    s.discardWindow = s.complete (.error .responseTimeout) := by
  simp [discardWindow, h]

/-! ### Issuing a read (R187, R195) -/

variable {unit : Byte} {start count : Word} {timeout : BitVec 32} {meas : Option Descriptor}

theorem startRead_of_awaiting (hq : s.qstate = .awaitingResponse) :
    s.startRead unit start count timeout meas = s.deliver (.error .busy) := by
  rcases startRead_cases unit start count timeout meas s with ⟨-, e⟩ | ⟨hq', -⟩ | ⟨hq', -⟩
  · exact e
  · cases hq.symm.trans hq'
  · cases hq.symm.trans hq'

theorem startRead_of_illegal (hq : s.qstate = .idle) (h : ¬(unitLegal unit = true ∧ meas.all descriptorLegal = true)) :
    s.startRead unit start count timeout meas = s.deliver (.error .refused) := by
  rcases startRead_cases unit start count timeout meas s with ⟨hq', -⟩ | ⟨-, -, e⟩ | ⟨-, hu, hm, -⟩
  · cases hq.symm.trans hq'
  · exact e
  · exact absurd ⟨hu, hm⟩ h

theorem startRead_of_legal (hq : s.qstate = .idle) (hu : unitLegal unit = true)
    (hm : meas.all descriptorLegal = true) :
    s.startRead unit start count timeout meas = { s with
      rxlen := 0, rxovf := false, gaperr := false, qstate := .awaitingResponse, expired := false, pendingMeas := meas,
      inflight := { unit := unit, fn := fnRead, start := start, count := count },
      outputs := s.outputs ++ [.emit (serialize unit fnRead (twoWords start count)), .armTimer timeout] } := by
  rcases startRead_cases unit start count timeout meas s with ⟨hq', -⟩ | ⟨-, hbad, -⟩ | ⟨-, -, -, e⟩
  · cases hq.symm.trans hq'
  · exact absurd ⟨hu, hm⟩ hbad
  · exact e

end State

theorem unitLegal_iff (unit : Byte) : unitLegal unit = true ↔ 1 ≤ unit.toNat ∧ unit.toNat ≤ 247 := by
  simp [unitLegal]

theorem not_unitLegal {unit : Byte} (h : unit = 0 ∨ 248 ≤ unit.toNat) : ¬unitLegal unit = true := by
  rw [unitLegal_iff]
  rcases h with rfl | hhigh
  · decide
  · omega

theorem descriptorLegal_iff (d : Descriptor) : descriptorLegal d = true ↔ (d.span = .one → d.scale ≠ 0) := by
  unfold descriptorLegal
  cases d.span <;> simp [scaleLegal]

/-! ### The commands at a Requester -/

section
variable {s : State} (hr : s.cfg.role = .requester)
include hr

theorem exec_rqSendRead (unit : Byte) (start count : Word) (timeout : BitVec 32) :
    exec (.rqSendRead unit start count timeout) s = .next (s.startRead unit start count timeout none) :=
  congrArg _ (State.inRole_own hr _)

theorem exec_rqReadMeas (unit : Byte) (addr : Word) (d : Descriptor) (timeout : BitVec 32) :
    exec (.rqReadMeas unit addr d timeout) s =
      .next (s.startRead unit addr (BitVec.ofNat 16 (spanRegs d.span)) timeout (some d)) :=
  congrArg _ (State.inRole_own hr _)

theorem exec_rqCancel_of_idle (hq : s.qstate = .idle) : exec .rqCancel s = .next (s.deliver (.ok .done)) := by
  rw [exec, execRqCancel, State.inRole_own hr]
  simp only [hq]

theorem exec_rqCancel_of_awaiting (hq : s.qstate = .awaitingResponse) :
    exec .rqCancel s = .next ((s.complete (.error .cancelled)).deliver (.ok .done)) := by
  rw [exec, execRqCancel, State.inRole_own hr]
  simp only [hq]

end

/-- Settles O39: the outcomes of issuing a read, of a legal unit in Idle and in AwaitingResponse. -/
theorem sendReadOpensTheExchange : Obligations.SendReadOpensTheExchange := by
  unfold Obligations.SendReadOpensTheExchange
  refine fun unit start count timeout => ⟨rfl, fun s hr => ⟨fun hq hmin hmax => ?_, fun hq => ?_⟩⟩
  · rw [exec_rqSendRead hr, State.startRead_of_legal hq ((unitLegal_iff _).mpr ⟨hmin, hmax⟩) rfl]
    rfl
  · rw [exec_rqSendRead hr, State.startRead_of_awaiting hq]
    rfl

/-- Settles O46: the end of the exchange with Cancelled, and nothing to end in Idle. -/
theorem cancelEndsTheExchange : Obligations.CancelEndsTheExchange := by
  unfold Obligations.CancelEndsTheExchange
  refine ⟨rfl, fun s hr => ⟨fun hq => ?_, fun hq => exec_rqCancel_of_idle hr hq⟩⟩
  rw [exec_rqCancel_of_awaiting hr hq, State.complete_eq]
  simp [State.deliver, State.put, State.pendingResult_error]

/-! ### The classification of a response (R189 to R191) -/

section
variable {s : State} {inflight : Inflight} {unit : Byte}

theorem exec_rhrR_requester (hr : s.cfg.role = .requester) (unit : Byte) (words : List Word) :
    exec (.rhrR unit words) s = .next (s.settle (classifyData unit words s.inflight)) := by
  rw [exec, execRhrR, hr]

theorem exec_exc_requester (hr : s.cfg.role = .requester) (unit : Byte) (fn : BitVec 7) (code : Byte) :
    exec (.exc unit fn code) s = .next (s.settle (classifyException unit fn code s.inflight)) := by
  rw [exec, execExc, hr]

/-- R190: the unit asked and as many words as asked for. -/
theorem classifyData_match {words : List Word} (hfn : inflight.fn = fnRead)
    (hlen : words.length = inflight.count.toNat) : classifyData inflight.unit words inflight = some (.ok words) :=
  if_pos ⟨rfl, hfn, hlen⟩

theorem classifyData_mismatch {words : List Word}
    (h : unit ≠ inflight.unit ∨ words.length ≠ inflight.count.toNat) : classifyData unit words inflight = none :=
  if_neg fun ⟨hu, _, hlen⟩ => h.elim (· hu) (· hlen)

/-- Exception frames of a read are those to function 0x03. -/
theorem exceptionFn_eq_iff (fn : BitVec 7) : exceptionFn fn = fnRead ||| 0x80 ↔ fn = 0x03 := by
  constructor
  · intro h
    rw [← requestFn_exceptionFn fn, h]
    rfl
  · rintro rfl
    rfl

theorem classifyException_match (hfn : inflight.fn = fnRead) (code : Byte) :
    classifyException inflight.unit 0x03 code inflight = some (.error (excName code)) := by
  rw [classifyException, hfn]
  exact if_pos ⟨rfl, rfl⟩

theorem classifyException_mismatch {fn : BitVec 7} (hfn : inflight.fn = fnRead)
    (h : unit ≠ inflight.unit ∨ fn ≠ 0x03) (code : Byte) : classifyException unit fn code inflight = none := by
  rw [classifyException, hfn]
  exact if_neg fun ⟨hu, hf⟩ => h.elim (· hu) (· ((exceptionFn_eq_iff fn).mp hf))

/-- R190: a matching data response completes the exchange. -/
theorem exec_rhrR_match {words : List Word} (hr : s.cfg.role = .requester) (hq : s.qstate = .awaitingResponse)
    (hfn : s.inflight.fn = fnRead) (hlen : words.length = s.inflight.count.toNat) :
    exec (.rhrR s.inflight.unit words) s = .next (s.complete (.ok words)) := by
  rw [exec_rhrR_requester hr, classifyData_match hfn hlen, State.settle_some hq]

/-- R191: a matching exception response completes the exchange. -/
theorem exec_exc_match (hr : s.cfg.role = .requester) (hq : s.qstate = .awaitingResponse)
    (hfn : s.inflight.fn = fnRead) (code : Byte) :
    exec (.exc s.inflight.unit 0x03 code) s = .next (s.complete (.error (excName code))) := by
  rw [exec_exc_requester hr, classifyException_match hfn, State.settle_some hq]

end

/-- Settles O41: the exchange ends with the words, there being no descriptor to decode them by. -/
theorem dataResponseEndsTheExchange : Obligations.DataResponseEndsTheExchange := by
  unfold Obligations.DataResponseEndsTheExchange
  intro words s hr hq hfn hlen hmeas
  rw [exec_rhrR_match hr hq hfn hlen, State.complete_eq, State.pendingResult_words hmeas, ← hmeas]

/-- Settles O42: the error is `excName` of the code. -/
theorem exceptionResponseEndsTheExchange : Obligations.ExceptionResponseEndsTheExchange := by
  unfold Obligations.ExceptionResponseEndsTheExchange
  intro code s hr hq hfn
  refine ⟨excName code, ?_, by rw [exec_exc_match hr hq hfn, State.complete_eq, State.pendingResult_error]⟩
  unfold excName
  split_ifs with h1 h2 h3 h4
  · exact .inl ⟨h1, rfl⟩
  · exact .inr (.inl ⟨h2, rfl⟩)
  · exact .inr (.inr (.inl ⟨h3, rfl⟩))
  · exact .inr (.inr (.inr (.inl ⟨h4, rfl⟩)))
  · refine .inr (.inr (.inr (.inr ⟨?_, rfl⟩)))
    bv_omega

/-- Settles O40: issuing the read, and the two responses that end it. -/
theorem readMeasReadsAndDecodes : Obligations.ReadMeasReadsAndDecodes := by
  unfold Obligations.ReadMeasReadsAndDecodes
  refine ⟨fun unit addr d timeout s hr => ⟨fun hq hmin hmax hd => ⟨BitVec.ofNat 16 (spanRegs d.span), ?_, ?_⟩,
    fun hq => ?_⟩, fun d s hr hq hfn hmeas => ⟨fun words hlen => ?_, fun code => ?_⟩⟩
  · cases d.span <;> rfl
  · rw [exec_rqReadMeas hr, State.startRead_of_legal hq ((unitLegal_iff _).mpr ⟨hmin, hmax⟩)
      (by exact (descriptorLegal_iff d).mpr hd)]
    rfl
  · rw [exec_rqReadMeas hr, State.startRead_of_awaiting hq]
    rfl
  · exact ⟨_, exec_rhrR_match hr hq hfn hlen, rfl, by rw [State.complete_outputs, State.pendingResult_meas hmeas]⟩
  · exact ⟨_, exec_exc_match hr hq hfn code, rfl, State.complete_outputs _ s⟩

/-- Settles O43: each is discarded, which the timeout decides. -/
theorem mismatchedFramesAreDiscarded : Obligations.MismatchedFramesAreDiscarded := by
  unfold Obligations.MismatchedFramesAreDiscarded
  intro i s hr hq hfn hi
  have hexec : exec i s = .next s.discardWindow := by
    rw [← State.settle_none hq]
    rcases hi with ⟨u, a, b, rfl | rfl | rfl | rfl⟩ | ⟨u, a, vs, rfl⟩ | ⟨u, ws, rfl, hne⟩ | ⟨u, fn, code, rfl, hne⟩
    · rw [exec, execWsrR, hr]
    · rw [exec, execWmrR, hr]
    · rw [exec, execRhr, hr]
    · rw [exec, execWsr, hr]
    · rw [exec, execWmr, hr]
    · rw [exec_rhrR_requester hr, classifyData_mismatch hne]
    · rw [exec_exc_requester hr, classifyException_mismatch hfn hne]
  refine ⟨fun he => ?_, fun he => ?_⟩
  · rw [hexec, State.discardWindow_of_running he]
  · rw [hexec, State.discardWindow_of_expired he, State.complete_eq, State.pendingResult_error]

/-! ### The timeout (R192) and events in Idle (R188) -/

/-- Settles O45: whether a byte of a window has been received decides. -/
theorem timeoutEndsOrMarks : Obligations.TimeoutEndsOrMarks := by
  unfold Obligations.TimeoutEndsOrMarks
  intro s rest hr hq hin
  have hstep : step s = .next ({ s with inputs := rest } : State).onTimeout := by
    simp only [step, State.fetch, hin, State.accept, hr]
  rw [hstep]
  refine ⟨fun h0 => ?_, fun h0 => ?_⟩ <;>
    rcases State.onTimeout_cases { s with inputs := rest } with ⟨hq', -⟩ | ⟨-, h0', e⟩ | ⟨-, h0', e⟩
  · cases hq.symm.trans hq'
  · rw [e, State.complete_eq, State.pendingResult_error, h0]
  · exact absurd h0 h0'.ne'
  · cases hq.symm.trans hq'
  · exact absurd h0' h0
  · rw [e]

/-- Settles O47: none of the four events reaches an engine in Idle. -/
theorem idleRequesterIgnoresEvents : Obligations.IdleRequesterIgnoresEvents := by
  unfold Obligations.IdleRequesterIgnoresEvents
  intro s e rest hr hq hin he
  rcases he with ⟨b, rfl⟩ | rfl | rfl | rfl <;> simp only [step, State.fetch, hin, State.accept, hr]
  · exact congrArg _ (State.onRxByte_of_idle (s := { s with inputs := rest }) hr hq b)
  · exact congrArg _ (State.onGap15_of_idle (s := { s with inputs := rest }) hr hq)
  · simp only [State.requesterGap35, hq]
  · simp only [State.onTimeout, hq]

/-! ### Reserved commands and illegal operands (R81; U4, U5, U7) -/

theorem decodeCommand_reserved {p : HostPort}
    (h : p.opsel = 0x00 ∨ p.opsel = 0x06 ∨ p.opsel = 0x07 ∨ 0x13 ≤ p.opsel.toNat) :
    decodeCommand p = .error (.reservedOpsel p.opsel) := by
  unfold decodeCommand
  repeat rw [if_neg (fun hop => by rw [hop] at h; revert h; decide)]

theorem decMeas_of_wrong_length {words : List Word} {d : Descriptor}
    (h : words.length ≠ if d.span = .one then 1 else 2) (accept : Bool) : decMeas accept words d = .error .refused := by
  unfold decMeas
  split
  · rfl
  · split <;> simp_all

theorem encMeas_of_illegal {d : Descriptor} (h : descriptorLegal d = false) (value : F64) :
    encMeas value d = .error .refused := by
  simp [encMeas, h]

theorem decMeas_of_illegal {d : Descriptor} (h : descriptorLegal d = false) (accept : Bool) (words : List Word) :
    decMeas accept words d = .error .refused := by
  simp [decMeas, h]

theorem descriptorLegal_of_zero_scale {d : Descriptor} (hspan : d.span = .one) (hscale : d.scale = 0) :
    descriptorLegal d = false := by
  rw [← Bool.not_eq_true, descriptorLegal_iff]
  exact fun h => h hspan hscale

/-- Settles O15: the command is rejected by its OPSEL, by the role, or by its operands. -/
theorem reservedCommandsAreRefused : Obligations.ReservedCommandsAreRefused := by
  unfold Obligations.ReservedCommandsAreRefused
  refine ⟨fun s p rest hin hop => ?_, fun s i h => ?_⟩
  · simp only [step, State.fetch, hin, State.accept, decodeCommand_reserved hop]
    rfl
  change exec i s = .next (s.deliver (.error .refused))
  -- another role's command, scale 0, a descriptor with scale 0, the wrong number of words, an illegal read in Idle
  rcases h with ⟨hr, start, count, values, rfl | rfl⟩ | ⟨hr, _, _, _, _, _, rfl | rfl | rfl⟩ |
    ⟨value, word, signed, rfl | rfl⟩ | ⟨value, words, d, hspan, hscale, rfl | rfl⟩ | ⟨words, d, hlen, rfl⟩ |
    ⟨hr, hq, unit, start, count, timeout, d, hunit, rfl | rfl⟩ | ⟨hr, hq, unit, start, timeout, d, hspan, hscale, rfl⟩
  · exact exec_rsRead_of_requester hr start count
  · exact exec_rsWrite_of_requester hr start values
  · exact congrArg _ (State.inRole_other (by simp [hr]) _)
  · exact congrArg _ (State.inRole_other (by simp [hr]) _)
  · exact congrArg _ (State.inRole_other (by simp [hr]) _)
  · rfl
  · rfl
  · rw [exec, execEncMeas, encMeas_of_illegal (descriptorLegal_of_zero_scale hspan hscale)]
    rfl
  · rw [exec, execDecMeas, decMeas_of_illegal (descriptorLegal_of_zero_scale hspan hscale)]
    rfl
  · rw [exec, execDecMeas, decMeas_of_wrong_length hlen]
    rfl
  · rw [exec_rqSendRead hr, State.startRead_of_illegal hq fun ⟨hu, _⟩ => not_unitLegal hunit hu]
  · rw [exec_rqReadMeas hr, State.startRead_of_illegal hq fun ⟨hu, _⟩ => not_unitLegal hunit hu]
  · have hbad := Bool.eq_false_iff.mp (descriptorLegal_of_zero_scale hspan hscale)
    rw [exec_rqReadMeas hr, State.startRead_of_illegal hq fun ⟨_, hd⟩ => hbad hd]

/-! ### The step of a Requester on a Gap35 (R189) -/

namespace State

/-- What the Gap35 of a Requester does with a validated frame: the response it is, or nothing that matches. -/
def judgeFrame (f : Frame) (s : State) : Host.Outcome State Fault Refusal :=
  match decodeResponse f with
  | .ok i => exec i s
  | .error _ => .next s.discardWindow

theorem judgeFrame_ok {f : Frame} {i : Instr} (h : decodeResponse f = .ok i) (s : State) :
    s.judgeFrame f = exec i s := by
  rw [judgeFrame, h]

theorem judgeFrame_error {f : Frame} {e : DecodeError} (h : decodeResponse f = .error e) (s : State) :
    s.judgeFrame f = .next s.discardWindow := by
  rw [judgeFrame, h]

/-- What the Gap35 of a Requester in AwaitingResponse does with the outcome of the window, the receive path being
clear. -/
def judgeWindow (w : Window) (s : State) : Host.Outcome State Fault Refusal :=
  match w with
  | .noWindow => .next s
  | .dropped _ => .next s.discardWindow
  | .frame f => s.judgeFrame f

end State

/-- What a step answers with the work it has found. -/
def Work.answer : Work → Host.Outcome State Fault Refusal
  | .run i t => exec i t
  | .done t => .next t
  | .refuse r => .refused r

theorem step_eq_answer (s : State) : step s = s.fetch.answer := by
  unfold step
  cases s.fetch <;> rfl

theorem State.answer_requesterGap35 {s : State} (hq : s.qstate = .awaitingResponse) :
    s.requesterGap35.answer = s.rxClear.judgeWindow s.rxOutcome := by
  simp only [requesterGap35, hq]
  cases s.rxOutcome with
  | noWindow => rfl
  | dropped e => rfl
  | frame f =>
    simp only [judgeWindow, judgeFrame]
    cases decodeResponse f <;> rfl

theorem step_gap35_requester {s : State} {rest : List Input} (hr : s.cfg.role = .requester)
    (hq : s.qstate = .awaitingResponse) (hin : s.inputs = .gap35 :: rest) :
    step s = ({ s with inputs := rest } : State).rxClear.judgeWindow s.rxOutcome := by
  simp only [step_eq_answer, State.fetch, hin, State.accept, hr]
  exact State.answer_requesterGap35 (s := { s with inputs := rest }) hq

/-! ### The pseudocode `classify` by function code -/

section
variable {inflight : Inflight} {f : Frame}

/-- Only frames to a read's function, or exceptions to it, are responses to a read. -/
theorem classifyPseudocode_other (hexc : f.fn ≠ inflight.fn ||| 0x80) (hfn : f.fn ≠ inflight.fn) :
    classifyPseudocode inflight f = none := by
  unfold classifyPseudocode
  dsimp only
  rw [if_neg hexc, if_neg hfn, ite_self]

/-- An exception frame, whose code has bit 7 set, is classified as its instruction is. -/
theorem classifyPseudocode_exception (hread : inflight.fn = fnRead) (hfn : isExceptionFn f.fn = true) {code : Byte}
    (hp : f.payload = [code]) :
    classifyPseudocode inflight f = classifyException f.unit (requestFn f.fn) code inflight := by
  rw [classifyException, exceptionFn_requestFn hfn]
  by_cases hu : f.unit = inflight.unit
  · by_cases hexc : f.fn = inflight.fn ||| 0x80
    · simp [classifyPseudocode, hu, hexc, hp, byteAt]
    · have hne : f.fn ≠ inflight.fn := by rintro h; rw [h, hread] at hfn; cases hfn
      rw [classifyPseudocode_other hexc hne, if_neg fun h => hexc h.2]
  · simp [classifyPseudocode, hu]

theorem classifyPseudocode_exception_badPdu (hread : inflight.fn = fnRead) (hfn : isExceptionFn f.fn = true)
    (hlen : f.payload.length ≠ 1) : classifyPseudocode inflight f = none := by
  have hne : f.fn ≠ inflight.fn := by rintro h; rw [h, hread] at hfn; cases hfn
  by_cases hexc : f.fn = inflight.fn ||| 0x80
  · simp [classifyPseudocode, hexc, hlen]
  · exact classifyPseudocode_other hexc hne

/-- A frame to the read's function is a match by its unit and its counts. -/
theorem classifyPseudocode_read (hread : inflight.fn = fnRead) (hfn : f.fn = fnRead) :
    classifyPseudocode inflight f =
      if f.unit = inflight.unit ∧ 1 ≤ f.payload.length ∧ (byteAt f.payload 0).toNat = f.payload.length - 1 ∧
          f.payload.length - 1 = 2 * inflight.count.toNat then
        some (.ok ((List.range inflight.count.toNat).map fun i => wordAt f.payload (1 + 2 * i)))
      else none := by
  have hexc : fnRead ≠ fnRead ||| 0x80 := by decide
  unfold classifyPseudocode
  dsimp only
  rw [hread, hfn, if_neg hexc, if_pos rfl]
  by_cases hu : f.unit = inflight.unit <;> simp [hu]

theorem classifyPseudocode_read_ok (hread : inflight.fn = fnRead) (hfn : f.fn = fnRead) {byteCount : Byte}
    {rest : List Byte} (hp : f.payload = byteCount :: rest) (hlen : rest.length = byteCount.toNat)
    (heven : rest.length % 2 = 0) :
    classifyPseudocode inflight f = classifyData f.unit (bytesWords rest) inflight := by
  have hbyte : byteAt f.payload 0 = byteCount := by rw [hp]; rfl
  have hlength : f.payload.length = rest.length + 1 := by rw [hp]; rfl
  rw [classifyPseudocode_read hread hfn, hbyte, hlength]
  by_cases hmatch : f.unit = inflight.unit ∧ rest.length = 2 * inflight.count.toNat
  · obtain ⟨hu, hcount⟩ := hmatch
    have hwords : (List.range inflight.count.toNat).map (fun i => wordAt f.payload (1 + 2 * i)) = bytesWords rest := by
      rw [hp, bytesWords_eq_map_wordAt _ rest hcount]
      refine List.map_congr_left fun i _ => ?_
      rw [Nat.add_comm]
      rfl
    rw [if_pos ⟨hu, by omega, by omega, by omega⟩, hwords, hu,
      classifyData_match hread (by rw [bytesWords_length]; omega)]
  · rw [if_neg fun ⟨hu, _, _, hcount⟩ => hmatch ⟨hu, by omega⟩, classifyData_mismatch]
    rw [bytesWords_length]
    by_cases hu : f.unit = inflight.unit
    · exact .inr fun hcount => hmatch ⟨hu, by omega⟩
    · exact .inl hu

end

/-- R189: a validated frame is settled as `classify` has it. -/
theorem State.judgeFrame_eq_settle {s : State} {f : Frame} (hr : s.cfg.role = .requester)
    (hq : s.qstate = .awaitingResponse) (hread : s.inflight.fn = fnRead) :
    s.judgeFrame f = .next (s.settle (classifyPseudocode s.inflight f)) := by
  have hdiscard {e : DecodeError} (hd : decodeResponse f = .error e) (hc : classifyPseudocode s.inflight f = none) :
      s.judgeFrame f = .next (s.settle (classifyPseudocode s.inflight f)) := by
    rw [judgeFrame_error hd, hc, settle_none hq]
  by_cases hfn : 0x80 ≤ f.fn.toNat
  · have hexc := (isExceptionFn_iff _).mpr hfn
    have hdec := decodeResponse_exception hfn
    rcases decodeException_cases f with ⟨code, hp, hd⟩ | ⟨hlen, hd⟩
    · rw [judgeFrame_ok (hdec.trans hd), exec_exc_requester hr, classifyPseudocode_exception hread hexc hp]
    · exact hdiscard (hdec.trans hd) (classifyPseudocode_exception_badPdu hread hexc hlen)
  by_cases h3 : f.fn = fnRead
  · have hdec := decodeResponse_read h3
    rcases decodeReadResponse_cases f with ⟨byteCount, rest, hp, hlen, heven, hd⟩ | ⟨hbad, hd⟩
    · rw [judgeFrame_ok (hdec.trans hd), exec_rhrR_requester hr, classifyPseudocode_read_ok hread h3 hp hlen heven]
    · refine hdiscard (hdec.trans hd) ?_
      rw [classifyPseudocode_read hread h3, if_neg (by omega)]
  have hnone : classifyPseudocode s.inflight f = none := by
    refine classifyPseudocode_other (fun h => hfn ?_) (hread ▸ h3)
    rw [h, hread]
    decide
  by_cases h6 : f.fn = 0x06
  · have hdec := decodeResponse_writeSingle h6
    rcases decodeTwoWords_cases f (.wsrR f.unit) with ⟨_, _, _, _, -, hd⟩ | ⟨-, hd⟩
    · rw [judgeFrame_ok (hdec.trans hd), exec, execWsrR, hr, hnone]
    · exact hdiscard (hdec.trans hd) hnone
  by_cases h10 : f.fn = 0x10
  · have hdec := decodeResponse_writeMultiple h10
    rcases decodeTwoWords_cases f (.wmrR f.unit) with ⟨_, _, _, _, -, hd⟩ | ⟨-, hd⟩
    · rw [judgeFrame_ok (hdec.trans hd), exec, execWmrR, hr, hnone]
    · exact hdiscard (hdec.trans hd) hnone
  · exact hdiscard (decodeResponse_unsupported (Nat.not_le.mp hfn) h3 h6 h10) hnone

/-- Settles O44: by the outcome of the window, a validated frame by what `classify` makes of it. -/
theorem requesterStepRefinesClassify : Obligations.RequesterStepRefinesClassify := by
  unfold Obligations.RequesterStepRefinesClassify
  intro s rest hinv hr hq hin cleared ended discarded
  obtain ⟨hread, -⟩ := (hinv.requester hr).read_inflight hq
  have hended (r : Except CoreError (List Word)) : cleared.complete r = ended r := State.complete_eq r cleared
  have hdiscarded : cleared.discardWindow = discarded := by
    rcases State.discardWindow_cases cleared with ⟨he, e⟩ | ⟨he, e⟩
    · exact e.trans (if_neg (by rw [show s.expired = false from he]; decide)).symm
    · exact e.trans ((hended _).trans (if_pos he).symm)
  have hstep : step s = cleared.judgeWindow s.rxOutcome := step_gap35_requester hr hq hin
  rw [hstep]
  cases s.rxOutcome with
  | noWindow => rfl
  | dropped e => exact congrArg _ hdiscarded
  | frame f =>
    refine (State.judgeFrame_eq_settle (s := cleared) hr hq hread).trans ?_
    dsimp only
    change Host.Outcome.next (cleared.settle (classifyPseudocode s.inflight f)) = _
    cases classifyPseudocode s.inflight f with
    | none => exact congrArg _ ((State.settle_none (s := cleared) hq).trans hdiscarded)
    | some r => exact congrArg _ ((State.settle_some (s := cleared) hq r).trans (hended r))

/-! ### The step of either role on a window or a command (R13, R48) -/

section
variable {s : State}

theorem State.rxOutcome_of_frameDecode {f : Frame} (h0 : s.rxlen ≠ 0) (hg : s.gaperr = false) (ho : s.rxovf = false)
    (hd : frameDecode s.window = .ok f) : s.rxOutcome = .frame f := by
  simp [rxOutcome, h0, hg, ho, hd]

/-- R109: a gap, an overflow or a failing `decode` drops the window. -/
theorem State.rxOutcome_dropped (h0 : s.rxlen ≠ 0)
    (h : s.gaperr = true ∨ s.rxovf = true ∨ ∃ e, frameDecode s.window = .error e) :
    ∃ e, s.rxOutcome = .dropped e := by
  rcases rxOutcome_cases s with ⟨h0', -⟩ | hdropped | ⟨-, hg, ho, f, hd, -⟩
  · exact absurd h0' h0
  · exact hdropped
  · simp [hg, ho, hd] at h

theorem exists_frame_of_decode {role : Role} {raw : List Byte} {i : Instr} (h : decode role (.frame raw) = .ok i) :
    ∃ f, frameDecode raw = .ok f ∧ decodeFrame role f = .ok i := by
  rw [decode] at h
  cases hd : frameDecode raw with
  | error e => rw [hd] at h; cases h
  | ok f => exact ⟨f, rfl, by rwa [hd] at h⟩

end

/-- Settles O16: a command is decoded off its lines, and a window by the framer and the role's direction. -/
theorem stepRunsTheDecodedInstruction : Obligations.StepRunsTheDecodedInstruction := by
  unfold Obligations.StepRunsTheDecodedInstruction
  refine ⟨fun s p rest i hin hd => ?_, fun s rest i hin hlisten h0 hg ho hdec => ?_⟩
  · have hd : decodeCommand p = .ok i := hd
    simp only [step, State.fetch, hin, State.accept, hd]
  · obtain ⟨f, hdecode, hd⟩ := exists_frame_of_decode hdec
    have hout := State.rxOutcome_of_frameDecode h0 hg ho hdecode
    cases hr : s.cfg.role with
    | responder =>
      rw [hr] at hd
      rw [step_gap35_responder hr hin, hout]
      exact State.serveFrame_ok hd _
    | requester =>
      rw [hr] at hd
      rw [step_gap35_requester hr (by simpa [hr] using hlisten) hin, hout]
      exact State.judgeFrame_ok hd _

/-- Settles O29: each cause drops the window. -/
theorem droppedWindowsLeaveNoTrace : Obligations.DroppedWindowsLeaveNoTrace := by
  unfold Obligations.DroppedWindowsLeaveNoTrace
  intro s rest hr hin h0 hcause
  obtain ⟨e, hout⟩ := State.rxOutcome_dropped h0 hcause
  rw [step_gap35_responder hr hin, hout]
  rfl

end Sys2Proof.Machine
end

section
/-! What a step puts out (60_exceptions.md R231), and one result an exchange (95_test_vectors.md L13; R186, R187). -/

namespace Sys2Proof.Machine

/-! ### The command that opens an exchange -/

section
variable {i : Instr} {s t : State}

/-- R187, R195: only the two read commands open an exchange. -/
theorem isRead_of_opens (h : exec i s = .next t) (hi : frameUnit i = none) (hq : s.qstate = .idle)
    (hq' : t.qstate = .awaitingResponse) :
    (∃ u a n x, i = .rqSendRead u a n x) ∨ ∃ u a d x, i = .rqReadMeas u a d x := by
  by_contra hread
  obtain ⟨hsend, hmeas⟩ := not_or.mp hread
  have hkeep : t.qstate = s.qstate := by
    cases hr : s.cfg.role with
    | responder => exact (exec_engineKeeps h (.inl hr)).qstate
    | requester =>
      by_cases hcancel : i = .rqCancel
      · subst hcancel
        cases (exec_rqCancel_of_idle hr hq).symm.trans h
        rfl
      · exact (exec_engineKeeps h (.inr ⟨hi, fun u a n x he => hsend ⟨u, a, n, x, he⟩,
          fun u a d x he => hmeas ⟨u, a, d, x, he⟩, hcancel⟩)).qstate
  rw [hq, hq'] at hkeep
  cases hkeep

theorem opsel_of_opens {p : HostPort} (hd : decodeCommand p = .ok i) (h : exec i s = .next t) (hq : s.qstate = .idle)
    (hq' : t.qstate = .awaitingResponse) : p.opsel = 0x10 ∨ p.opsel = 0x12 := by
  obtain ⟨hframe, -, -, -, hsend, hmeas⟩ := decodeCommand_opsel hd
  rcases isRead_of_opens h hframe hq hq' with ⟨u, a, n, x, hi⟩ | ⟨u, a, d, x, hi⟩
  · exact .inl (hsend u a n x hi)
  · exact .inr (hmeas u a d x hi)

end

/-! ### Everything a step can put out -/

/-- Everything the step from `s` to `t` that takes `e` can put out, and what becomes of an exchange with it. -/
inductive StepOutput (s : State) (e : Input) (t : State) : Prop where
  | silent (hq : t.qstate = s.qstate) (ho : t.outputs = s.outputs)
  | reset (he : isReset e = true) (os : List Output) (hos : os = [] ∨ os = [.disarmTimer])
      (ho : t.outputs = s.outputs ++ os)
  | serves (hr : s.cfg.role = .responder) (he : e = .gap35) (bytes : List Byte)
      (ho : t.outputs = s.outputs ++ [.emit bytes])
  | answers (p : HostPort) (he : e = .command p) (hq : t.qstate = s.qstate) (r : Except CoreError HostValue)
      (ho : t.outputs = s.outputs ++ [.result r])
  | opens (hr : s.cfg.role = .requester) (p : HostPort) (he : e = .command p)
      (hop : p.opsel = 0x10 ∨ p.opsel = 0x12) (hq : s.qstate = .idle) (hq' : t.qstate = .awaitingResponse)
      (bytes : List Byte) (x : BitVec 32) (ho : t.outputs = s.outputs ++ [.emit bytes, .armTimer x])
  | ends (hr : s.cfg.role = .requester) (hq : s.qstate = .awaitingResponse) (hq' : t.qstate = .idle)
      (r : Except CoreError HostValue) (ho : t.outputs = s.outputs ++ [.completion r, .disarmTimer])
  | cancels (hr : s.cfg.role = .requester) (p : HostPort) (he : e = .command p) (hq : s.qstate = .awaitingResponse)
      (hq' : t.qstate = .idle) (r : Except CoreError HostValue) (ack : Except CoreError HostValue)
      (ho : t.outputs = s.outputs ++ [.completion r, .disarmTimer, .result ack])

namespace State

@[simp] theorem onRxByte_qstate (b : Byte) (s : State) : (s.onRxByte b).qstate = s.qstate := by
  rcases s.listening_or_idle with hlisten | ⟨hr, hq⟩
  · simp [onRxByte_of_listening hlisten]
  · rw [onRxByte_of_idle hr hq]

@[simp] theorem onGap15_qstate (s : State) : s.onGap15.qstate = s.qstate := by
  rcases s.listening_or_idle with hlisten | ⟨hr, hq⟩
  · simp [onGap15_of_listening hlisten]
  · rw [onGap15_of_idle hr hq]

end State

section
variable {s t u : State} {e : Input} {rest : List Input}

/-- A classified window puts out the end of the exchange or nothing. -/
theorem stepOutput_settle (hr : s.cfg.role = .requester) (hq : s.qstate = .awaitingResponse) (hu : u.qstate = s.qstate)
    (ho : u.outputs = s.outputs) (c : Option (Except CoreError (List Word))) : StepOutput s e (u.settle c) := by
  rcases State.settle_cases c u with h | ⟨-, r, h⟩ <;> rw [h]
  · exact .silent hu ho
  · exact .ends hr hq rfl _ (by rw [State.complete_outputs, ho])

theorem FrameEffect.stepOutput (h : FrameEffect u t) (hr : s.cfg.role = .responder) (hu : u.qstate = s.qstate)
    (ho : u.outputs = s.outputs) : StepOutput s .gap35 t := by
  cases h with
  | silent => exact .silent hu ho
  | answer | write => exact .serves hr rfl _ (by rw [← ho])

theorem stepOutput_command {p : HostPort} {i : Instr} (hd : decodeCommand p = .ok i)
    (h : exec i { s with inputs := rest } = .next t) : StepOutput s (.command p) t := by
  obtain ⟨hframe, -⟩ := decodeCommand_opsel hd
  cases commandEffect_of_exec h hframe with
  | answer | crc | write => exact .answers p rfl rfl _ rfl
  | send unit start count timeout meas hr hq =>
    exact .opens hr p rfl (opsel_of_opens hd h hq rfl) hq rfl _ _ rfl
  | cancel hr hq =>
    refine .cancels hr p rfl hq rfl (.error .cancelled) (.ok .done) ?_
    rw [State.deliver_outputs, State.complete_outputs, List.append_assoc]
    rfl

theorem StepEffect.stepOutput (h : StepEffect s { s with inputs := rest } e t) : StepOutput s e t := by
  cases h with
  | rxByte | gap15 => exact .silent (by simp) (by simp)
  | timeoutIgnored | noWindow | dropped | idleGap | emptyGap => exact .silent rfl rfl
  | reserved p => exact .answers p rfl rfl _ rfl
  | command p i t hd h => exact stepOutput_command hd h
  | timeout hr =>
    rcases State.onTimeout_cases { s with inputs := rest } with ⟨-, h⟩ | ⟨hq, -, h⟩ | ⟨-, -, h⟩ <;> rw [h]
    · exact .silent rfl rfl
    · exact .ends hr hq rfl _ (State.complete_outputs _ _)
    · exact .silent rfl rfl
  | reset =>
    by_cases hq : s.cfg.role = .requester ∧ s.qstate = .awaitingResponse
    · exact .reset rfl _ (.inr rfl) (by rw [if_pos hq]; rfl)
    · exact .reset rfl _ (.inl rfl) (by rw [if_neg hq, List.append_nil]; rfl)
  | request hr f i _ _ hd h =>
    exact (frameEffect_of_exec h hr (frameUnit_ne_none_of_decodeRequest hd)).stepOutput hr rfl rfl
  | badRequest hr f x _ hd => exact (rejectRequest_effect _ hd).stepOutput hr rfl rfl
  | discarded hr hq =>
    rw [← State.settle_none (s := ({ s with inputs := rest } : State).rxClear) hq]
    exact stepOutput_settle (u := ({ s with inputs := rest } : State).rxClear) hr hq rfl rfl none
  | response hr hq f i _ _ hd h =>
    obtain ⟨c, rfl⟩ := eq_settle_of_exec h hr (frameUnit_ne_none_of_decodeResponse hd)
    exact stepOutput_settle (u := ({ s with inputs := rest } : State).rxClear) hr hq rfl rfl c

end

/-- Settles O38: by what the step put out. -/
theorem onlyTheseStepsPutOut : Obligations.OnlyTheseStepsPutOut := by
  unfold Obligations.OnlyTheseStepsPutOut
  intro s t h
  rcases step_effect h with ⟨-, rfl⟩ | ⟨e, rest, hin, heffect⟩
  · exact ⟨[], by simp, by simp [emitted], by simp [results], by simp [completions]⟩
  rw [hin]
  cases heffect.stepOutput with
  | silent _ ho => exact ⟨[], by simp [ho], by simp [emitted], by simp [results], by simp [completions]⟩
  | reset _ os hos ho =>
    refine ⟨os, ho, ?_⟩
    rcases hos with rfl | rfl <;> simp [emitted, results, completions]
  | serves hr he bytes ho =>
    exact ⟨_, ho, fun _ => .inl ⟨hr, rest, by rw [he]⟩, by simp [results], by simp [completions]⟩
  | answers p he _ r ho => exact ⟨_, ho, by simp [emitted], fun _ => ⟨p, rest, by rw [he]⟩, by simp [completions]⟩
  | opens hr p he hop _ _ bytes x ho =>
    exact ⟨_, ho, fun _ => .inr ⟨hr, p, rest, by rw [he], hop⟩, by simp [results], by simp [completions]⟩
  | ends hr hq _ r ho => exact ⟨_, ho, by simp [emitted], by simp [results], fun _ => ⟨hr, hq⟩⟩
  | cancels hr p he hq _ r ack ho =>
    exact ⟨_, ho, by simp [emitted], fun _ => ⟨p, rest, by rw [he]⟩, fun _ => ⟨hr, hq⟩⟩

theorem newOutputs_of_append {s t : State} {os : List Output} (h : t.outputs = s.outputs ++ os) :
    newOutputs s t = os := by
  rw [newOutputs, h, List.drop_left]

/-- Settles O48: by what the step put out and what became of the exchange. -/
theorem oneResultPerExchange : Obligations.OneResultPerExchange := by
  unfold Obligations.OneResultPerExchange
  intro s t _ hr h hreset
  rcases step_effect h with ⟨-, rfl⟩ | ⟨e, rest, hin, heffect⟩
  · rw [newOutputs_of_append (List.append_nil _).symm]
    cases t.qstate <;> simp [completions]
  have he := hreset e rest hin
  cases heffect.stepOutput with
  | silent hkeep ho =>
    rw [newOutputs_of_append (os := []) (by rw [ho, List.append_nil]), hkeep]
    cases s.qstate <;> simp [completions]
  | reset he' => cases he.symm.trans he'
  | serves hr' => cases hr.symm.trans hr'
  | answers p _ hkeep r ho =>
    rw [newOutputs_of_append ho, hkeep]
    cases s.qstate <;> simp [completions]
  | opens _ p he hop hq hq' bytes x ho =>
    rw [newOutputs_of_append ho, hq, hq', hin, he]
    exact ⟨by simp, fun _ => rfl, fun _ _ => ⟨p, rest, rfl, hop, rfl, bytes, rfl⟩⟩
  | ends _ hq hq' r ho =>
    rw [newOutputs_of_append ho, hq, hq']
    exact ⟨fun _ _ => ⟨r, rfl⟩, by simp, by simp⟩
  | cancels _ p _ hq hq' r ack ho =>
    rw [newOutputs_of_append ho, hq, hq']
    exact ⟨fun _ _ => ⟨r, rfl⟩, by simp, by simp⟩

end Sys2Proof.Machine
end

section
/-! The codec (43_codec.md): the values of float patterns (R146), the product and the quotient (R137, R140), the round
trip of the scaled codec (R142), the measurements (R152 to R154), and the results of the CRC commands (40_crc.md R94 to
R96). -/

namespace Sys2Proof.Machine

/-! ### The value of a pattern by its fields (R146) -/

section
variable {fmt : FloatFormat} {p : Nat}

/-- The exponent bias is one more than a number that, with the fraction field, makes the exponent of a unit. -/
theorem FloatFormat.Regular.exists_bias (hreg : fmt.Regular) :
    ∃ b : ℕ, (2 : ℤ) ^ (fmt.expBits - 1) - 1 = b + 1 ∧ unitsPerOne fmt = 2 ^ (b + fmt.fracBits) := by
  obtain ⟨d, hd⟩ := Nat.exists_eq_add_of_le hreg.exp_room
  refine ⟨fmt.fracBits + d, ?_, ?_⟩
  · have hpow : (2 : ℤ) ^ (fmt.expBits - 1) = (fmt.fracBits + 2 + d : ℕ) := by exact_mod_cast hd
    rw [hpow]
    push_cast
    ring
  · rw [unitsPerOne, unitExp, hd]
    congr 1
    have := hreg.frac_pos
    omega

theorem floatValue_normal (hreg : fmt.Regular) (hexp : floatExp fmt p ≠ 0) :
    floatValue fmt p =
      (if floatSign fmt p then -1 else 1) * (2 : ℚ) ^ ((floatExp fmt p : ℤ) - (2 ^ (fmt.expBits - 1) - 1)) *
        (1 + (floatFrac fmt p : ℚ) / 2 ^ fmt.fracBits) := by
  obtain ⟨b, hbias, hunits⟩ := hreg.exists_bias
  obtain ⟨e, he⟩ := Nat.exists_eq_succ_of_ne_zero hexp
  have hmagnitude : floatUnits fmt p = (2 ^ fmt.fracBits + floatFrac fmt p) * 2 ^ e := by
    simp only [floatUnits, he, Nat.succ_ne_zero, if_false, Nat.succ_eq_add_one, Nat.add_sub_cancel]
  have hshift : (2 : ℚ) ^ ((floatExp fmt p : ℤ) - (b + 1)) = 2 ^ e / 2 ^ b := by
    rw [he, Nat.succ_eq_add_one, Nat.cast_add_one, add_sub_add_right_eq_sub, zpow_sub₀ two_ne_zero, zpow_natCast,
      zpow_natCast]
  rw [floatValue, hmagnitude, hunits, hbias, hshift, mul_assoc, pow_add]
  congr 1
  push_cast
  field_simp

theorem floatValue_subnormal (hreg : fmt.Regular) (hexp : floatExp fmt p = 0) :
    floatValue fmt p =
      (if floatSign fmt p then -1 else 1) * (2 : ℚ) ^ ((1 : ℤ) - (2 ^ (fmt.expBits - 1) - 1)) *
        ((floatFrac fmt p : ℚ) / 2 ^ fmt.fracBits) := by
  obtain ⟨b, hbias, hunits⟩ := hreg.exists_bias
  have hmagnitude : floatUnits fmt p = floatFrac fmt p := by simp only [floatUnits, hexp, if_true]
  have hshift : (2 : ℚ) ^ ((1 : ℤ) - (b + 1)) = 1 / 2 ^ b := by
    rw [sub_add_cancel_right, zpow_neg, zpow_natCast, one_div]
  rw [floatValue, hmagnitude, hunits, hbias, hshift, mul_assoc, pow_add]
  congr 1
  push_cast
  field_simp

end

/-- Settles O49: both formats are regular, and the exponent field tells the two formulas apart. -/
theorem floatValuesAreIeee : Obligations.FloatValuesAreIeee := by
  unfold Obligations.FloatValuesAreIeee
  intro fmt hfmt p _
  have hreg : fmt.Regular := by
    rcases hfmt with rfl | rfl
    · exact binary32_regular
    · exact binary64_regular
  exact ⟨floatValue_normal hreg, floatValue_subnormal hreg⟩

/-! ### Product and quotient (R137, R140) -/

theorem correctlyRounded_mulF64 (a b : F64) :
    CorrectlyRounded binary64 (floatValue binary64 a.toNat * floatValue binary64 b.toNat) (mulF64 a b).toNat := by
  have hproduct : floatValue binary64 a.toNat * floatValue binary64 b.toNat =
      (if floatSign binary64 a.toNat != floatSign binary64 b.toNat then -1 else 1) *
        ((floatUnits binary64 a.toNat * floatUnits binary64 b.toNat : ℕ) /
          (unitsPerOne binary64 * unitsPerOne binary64 : ℕ)) := by
    rw [floatValue, floatValue, mul_mul_mul_comm, div_mul_div_comm, Nat.cast_mul, Nat.cast_mul]
    congr 1
    cases floatSign binary64 a.toNat <;> cases floatSign binary64 b.toNat <;> simp
  rw [hproduct, mulF64, toNat_ofNat_signedPattern (w := 64) rfl _ (roundMagnitude_lt _ _ _)]
  exact correctlyRounded_roundMagnitude binary64_regular _ _ (Nat.mul_pos (unitsPerOne_pos _) (unitsPerOne_pos _))

theorem floatUnits_pos_of_floatValue_ne_zero {fmt : FloatFormat} {p : Nat} (h : floatValue fmt p ≠ 0) :
    0 < floatUnits fmt p := by
  refine Nat.pos_of_ne_zero fun h0 => h ?_
  rw [floatValue, h0, Nat.cast_zero, zero_div, mul_zero]

theorem isNonfinite_f64OfInt {n : Int} (hn : n.natAbs < 2 ^ 53) : isNonfinite binary64 (f64OfInt n).toNat = false := by
  obtain ⟨m, hm, hpattern, -⟩ := exists_magnitude_f64OfInt hn
  rw [hpattern]
  exact (isNonfinite_signedPattern_eq_false_iff _ _ (hm.trans (infinityPattern_lt _))).mpr hm

/-- Settles O50: each is the one rounding of an exact fraction of units, and small integers need none. -/
theorem productAndQuotientAreCorrectlyRounded : Obligations.ProductAndQuotientAreCorrectlyRounded := by
  unfold Obligations.ProductAndQuotientAreCorrectlyRounded
  refine ⟨fun a b _ _ => correctlyRounded_mulF64 a b,
    fun a b _ _ hb => correctlyRounded_divF64 a (floatUnits_pos_of_floatValue_ne_zero hb), fun n hn => ?_⟩
  have hlt : n.natAbs < 2 ^ 53 := by omega
  exact ⟨isNonfinite_f64OfInt hlt, floatValue_f64OfInt hlt⟩

/-! ### The round trip of the scaled codec (R142) -/

theorem CorrectlyRounded.abs_sub_le {fmt : FloatFormat} {x : ℚ} {p q : Nat} (h : CorrectlyRounded fmt x p)
    (hx : |x| < overflowBound fmt) (hq : isFinitePattern fmt q) :
    |x - floatValue fmt p| ≤ |x - floatValue fmt q| := by
  rw [CorrectlyRounded, if_neg (not_le.mpr hx)] at h
  exact (h.2 q hq).1

/-- Multiples of `2^-20` below `2^16` are binary64 values. -/
theorem exists_finite_dyadic (sign : Bool) {c : Nat} (hc : c < 2 ^ 36) :
    ∃ q, isFinitePattern binary64 q ∧ floatValue binary64 q = (if sign then -1 else 1) * ((c : ℚ) / 2 ^ 20) := by
  obtain ⟨t, ht⟩ : ∃ t, unitsPerOne binary64 = 2 ^ 20 * 2 ^ t :=
    ⟨unitExp binary64 - 20, by rw [← pow_add, unitsPerOne, Nat.add_sub_cancel' (by decide)]⟩
  have hlt : c * 2 ^ t < 2 ^ 2 ^ (binary64.expBits - 1) * unitsPerOne binary64 := by
    rw [ht, ← mul_assoc]
    exact Nat.mul_lt_mul_of_pos_right (hc.trans (by decide +kernel)) (Nat.two_pow_pos t)
  obtain ⟨m, hm, hunits⟩ := exists_finite_magnitudeUnits_eq binary64_regular (hc.trans (by decide)) hlt
  refine ⟨signedPattern binary64 sign m, (isFinitePattern_iff _).mpr ⟨sign, m, hm, rfl⟩, ?_⟩
  rw [floatValue_signedPattern _ _ (hm.trans (infinityPattern_lt _)), hunits, ht]
  rw [Nat.cast_mul, Nat.cast_mul, mul_div_mul_right _ _ (Nat.cast_ne_zero.mpr (Nat.two_pow_pos t).ne')]
  norm_num

/-- So every rational below `2^16` is within `2^-20` of a binary64 value. -/
theorem exists_finite_near {x : ℚ} (hx : |x| < 2 ^ 16) :
    ∃ q, isFinitePattern binary64 q ∧ |x - floatValue binary64 q| ≤ 1 / 2 ^ 20 := by
  have hnonneg : 0 ≤ |x| * 2 ^ 20 := by positivity
  have hc : ⌊|x| * 2 ^ 20⌋₊ < 2 ^ 36 := by
    rw [Nat.floor_lt hnonneg]
    push_cast
    linarith
  obtain ⟨q, hq, hvalue⟩ := exists_finite_dyadic (decide (x < 0)) hc
  refine ⟨q, hq, ?_⟩
  have hsign : x = (if decide (x < 0) then -1 else 1) * |x| := by
    rcases lt_or_ge x 0 with hneg | hpos
    · simp [hneg, abs_of_neg hneg]
    · simp [hpos.not_gt, abs_of_nonneg hpos]
  have hdown := Nat.floor_le hnonneg
  have hup := Nat.lt_floor_add_one (|x| * 2 ^ 20)
  rw [hvalue]
  nth_rewrite 1 [hsign]
  rw [← mul_sub, abs_sign_mul, abs_of_nonneg]
  · rw [sub_le_iff_le_add, ← add_div, le_div_iff₀ (by positivity), add_comm]
    exact hup.le
  · rw [sub_nonneg, div_le_iff₀ (by positivity)]
    exact hdown

/-- `round_haz` of a value less than one half from an integer is the integer (R138). -/
theorem roundHalfAway_of_near {p : F64} {n : Int} (h : |floatValue binary64 p.toNat - n| < 1 / 2) :
    roundHalfAway p = n := by
  obtain ⟨hlow, hhigh⟩ := abs_lt.mp h
  have hvalue := abs_floatValue binary64 p.toNat
  rw [roundHalfAway_eq_floor]
  unfold floatValue at hlow hhigh
  cases hsign : floatSign binary64 p.toNat
  all_goals
    rw [hsign, ← hvalue] at hlow hhigh
    simp only [Bool.false_eq_true, if_false, if_true] at hlow hhigh ⊢
  · rw [Int.floor_eq_iff]
    constructor <;> linarith
  · rw [neg_eq_iff_eq_neg, Int.floor_eq_iff]
    push_cast
    constructor <;> linarith

theorem wordRange_wordInt (signed : Bool) (word : Word) : wordRange signed (wordInt signed word) := by
  cases signed with
  | false =>
    have := word.isLt
    simp only [wordRange, wordInt, Bool.false_eq_true, if_false]
    omega
  | true =>
    have hlow := word.le_toInt
    have hhigh := word.toInt_lt
    simp only [wordRange, wordInt, if_true]
    omega

theorem ofInt_wordInt (signed : Bool) (word : Word) : BitVec.ofInt 16 (wordInt signed word) = word := by
  cases signed <;> simp [wordInt]

theorem two_pow_seventeen_lt_overflowBound : (2 : ℚ) ^ 17 < overflowBound binary64 :=
  lt_of_lt_of_le (pow_lt_pow_right₀ one_lt_two (by decide)) (two_pow_le_overflowBound binary64_regular)

section
variable (word : Word) {scale : Word} (hscale : scale ≠ 0) (signed : Bool)
include hscale

/-- The decoded value is within `2^-20` of the exact quotient. -/
theorem abs_div_sub_decScaled_le :
    |(wordInt signed word : ℚ) / scale.toNat - floatValue binary64 (decScaled word scale signed).toNat| ≤
      1 / 2 ^ 20 := by
  have hquot := abs_wordInt_div_lt word hscale signed
  obtain ⟨q, hq, hnear⟩ := exists_finite_near hquot
  have hbound : |(wordInt signed word : ℚ) / scale.toNat| < overflowBound binary64 :=
    hquot.trans (lt_of_le_of_lt (by norm_num) two_pow_seventeen_lt_overflowBound)
  exact ((correctlyRounded_decScaled word hscale signed).abs_sub_le hbound hq).trans hnear

/-- Times the scale it is within `1/16` of the word. -/
theorem abs_decScaled_mul_sub_le :
    |floatValue binary64 (decScaled word scale signed).toNat * scale.toNat - wordInt signed word| ≤ 1 / 16 := by
  have hpos : (0 : ℚ) < scale.toNat := by exact_mod_cast scale_toNat_pos hscale
  have hlt : (scale.toNat : ℚ) ≤ 2 ^ 16 := by exact_mod_cast scale.isLt.le
  have hfactor : floatValue binary64 (decScaled word scale signed).toNat * scale.toNat - wordInt signed word =
      -(((wordInt signed word : ℚ) / scale.toNat - floatValue binary64 (decScaled word scale signed).toNat) *
        scale.toNat) := by
    field_simp
    ring
  rw [hfactor, abs_neg, abs_mul, Nat.abs_cast]
  calc _ ≤ 1 / 2 ^ 20 * (2 : ℚ) ^ 16 :=
        mul_le_mul (abs_div_sub_decScaled_le word hscale signed) hlt hpos.le (by positivity)
    _ = 1 / 16 := by norm_num

/-- The product is below overflow, and no farther from the exact one than the word is. -/
theorem mulF64_decScaled_near :
    isNonfinite binary64 (mulF64 (decScaled word scale signed) (f64OfInt scale.toNat)).toNat = false ∧
    |floatValue binary64 (mulF64 (decScaled word scale signed) (f64OfInt scale.toNat)).toNat - wordInt signed word| <
      1 / 2 := by
  have hscaleLt := scale.isLt
  have hwordLt := natAbs_wordInt_lt signed word
  have hround := correctlyRounded_mulF64 (decScaled word scale signed) (f64OfInt scale.toNat)
  rw [floatValue_f64OfInt (by omega), Int.cast_natCast] at hround
  have hnear := abs_decScaled_mul_sub_le word hscale signed
  set x : ℚ := floatValue binary64 (decScaled word scale signed).toNat * scale.toNat
  have hword : |(wordInt signed word : ℚ)| < 2 ^ 16 := by
    rw [← Int.cast_abs, ← Nat.cast_natAbs]
    exact_mod_cast hwordLt
  have hbound : |x| < overflowBound binary64 := by
    have htriangle := abs_sub_abs_le_abs_sub x (wordInt signed word)
    exact lt_trans (by linarith) two_pow_seventeen_lt_overflowBound
  refine ⟨by rw [← Bool.not_eq_true, hround.isNonfinite_iff, not_le]; exact hbound, ?_⟩
  have hexact : isFinitePattern binary64 (f64OfInt (wordInt signed word)).toNat :=
    ⟨BitVec.isLt _, isNonfinite_f64OfInt (by omega)⟩
  have hle := hround.abs_sub_le hbound hexact
  rw [floatValue_f64OfInt (by omega)] at hle
  have htriangle := abs_sub_le (floatValue binary64 (mulF64 (decScaled word scale signed) (f64OfInt scale.toNat)).toNat)
    x (wordInt signed word)
  rw [abs_sub_comm _ x] at htriangle
  linarith

end

/-- Settles O55: the quotient and the product are each off by so little that the product rounds to the word. -/
theorem scaledRoundTrip : Obligations.ScaledRoundTrip := by
  unfold Obligations.ScaledRoundTrip
  intro word scale signed hscale
  obtain ⟨hfinite, hnear⟩ := mulF64_decScaled_near word hscale signed
  have hround := roundHalfAway_of_near hnear
  rw [encScaled_ok (isNonfinite_decScaled word hscale signed) hfinite (by rw [hround]; exact wordRange_wordInt _ _),
    hround, ofInt_wordInt]

/-! ### Measurements (R152 to R154) -/

section
variable {d : Descriptor}

theorem encMeas_one (hspan : d.span = .one) (hscale : d.scale ≠ 0) (value : F64) :
    encMeas value d = (encScaled value d.scale d.signed).map fun w => [w] := by
  have hlegal := (descriptorLegal_iff d).mpr fun _ => hscale
  simp only [encMeas, hlegal, hspan]
  cases encScaled value d.scale d.signed <;> rfl

theorem decMeas_one (hspan : d.span = .one) (hscale : d.scale ≠ 0) (accept : Bool) (word : Word) :
    decMeas accept [word] d = .ok (decScaled word d.scale d.signed) := by
  have hlegal := (descriptorLegal_iff d).mpr fun _ => hscale
  simp only [decMeas, hlegal, hspan]
  rfl

theorem encMeas_two (hspan : d.span = .two) (value : F64) :
    encMeas value d =
      .ok [(encF32 value d.byteOrder d.wordOrder).1, (encF32 value d.byteOrder d.wordOrder).2] := by
  have hlegal := (descriptorLegal_iff d).mpr fun h => by cases hspan.symm.trans h
  simp only [encMeas, hlegal, hspan]
  rfl

theorem decMeas_two (hspan : d.span = .two) (accept : Bool) (reg0 reg1 : Word) :
    decMeas accept [reg0, reg1] d = decF32 accept reg0 reg1 d.byteOrder d.wordOrder := by
  have hlegal := (descriptorLegal_iff d).mpr fun h => by cases hspan.symm.trans h
  simp only [decMeas, hlegal, hspan]
  rfl

end

/-- Settles O60: the commands put out what `encMeas` and `decMeas` answer, by the span. -/
theorem measurementsFollowTheirDescriptor : Obligations.MeasurementsFollowTheirDescriptor := by
  unfold Obligations.MeasurementsFollowTheirDescriptor
  refine ⟨fun d s => ⟨fun hspan hscale value word => ⟨?_, ?_⟩, fun hspan value reg0 reg1 => ⟨?_, ?_⟩⟩,
    fun value words scale signed b w n => ⟨rfl, rfl⟩⟩
  · rw [exec, execEncMeas, encMeas_one hspan hscale]
    cases encScaled value d.scale d.signed <;> rfl
  · rw [exec, execDecMeas, decMeas_one hspan hscale]
    rfl
  · rw [exec, execEncMeas, encMeas_two hspan]
    rfl
  · rw [exec, execDecMeas, decMeas_two hspan]
    rfl

/-! ### The CRC commands (40_crc.md R94 to R96) -/

/-- Settles O4: each command's meaning is its next state, its OPSEL is decoded, and the examples are evaluated. -/
theorem crcCommandResults : Obligations.CrcCommandResults := by
  unfold Obligations.CrcCommandResults
  exact ⟨fun _ => rfl, fun _ _ => rfl, fun _ => rfl, fun _ => ⟨rfl, rfl, rfl⟩, rfl, by decide +kernel,
    by decide +kernel⟩

end Sys2Proof.Machine
end
